-- ==== Sys2Proof/Word.lean ====
section
/-! DEFINITION. The word, byte and colour types of the glyph rasterizer block (00 R6, R8, R10). -/

namespace Sys2Proof

/-- A 32-bit register or command word (10, opening; 30 R80). -/
abbrev Word := BitVec 32

/-- One byte of a block memory (00 R6). -/
abbrev Byte := BitVec 8

/-- A byte address of the 24-bit host aperture (20 R60). -/
abbrev Addr := BitVec 24

/-- A colour: the ordered channels R, G, B, A of 8 bits each (00 R10, 10 R32). -/
structure Color where
  r : Byte
  g : Byte
  b : Byte
  a : Byte
  deriving DecidableEq, Repr

end Sys2Proof
end

