-- ==== Sys2Proof/Syntax.lean ====
section
/-! DEFINITION. The nine commands of the block (30 R84; spec/opcode_table.json). Immediate fields are unsigned numbers
(30 R82); whether each fits its field is `Instr.WellFormed` (30 R88). -/

namespace Sys2Proof

/-- The colour-source selector CSEL of a BLIT (42 R150). -/
inductive Csel where
  /-- 0: COLOR_FG. -/
  | fg
  /-- 1: COLOR_OUTLINE. -/
  | outline
  /-- 2: COLOR_SHADOW. -/
  | shadow
  /-- 3: the gradient over PAL. -/
  | grad
  deriving DecidableEq, Repr

/-- One command, with the operands its word carries (30 R84). -/
inductive Instr where
  /-- `nop` (44 R190). -/
  | nop
  /-- `font.load SLOT` (40 R101). -/
  | fontLoad (slot : Nat)
  /-- `measure` (43 R172). -/
  | measure
  /-- `draw` (43 R170). -/
  | draw
  /-- `sample SCANLINE` (41 R126). -/
  | sample (scanline : Nat)
  /-- `buf.init` (42 R148). -/
  | bufInit
  /-- `blit CHAR, CSEL` (42 R149). -/
  | blit (char : Nat) (csel : Csel)
  /-- `present` (43 R176). -/
  | present
  /-- `clear` (44 R191). -/
  | clear
  deriving DecidableEq, Repr

end Sys2Proof
end

