-- ==== Sys2Proof/WellFormed.lean ====
section
/-! DEFINITION. Which command terms have a command word: the operand ranges of 30 R88. -/

namespace Sys2Proof

/-- "An operand outside its field's range is an assembly error, not a command word" (30 R88): SLOT 0..255,
SCANLINE 0..65535, CHAR 0..255. -/
def Instr.wellFormed : Instr → Bool
  | .nop => true
  | .fontLoad slot => decide (slot < 256)
  | .measure => true
  | .draw => true
  | .sample scanline => decide (scanline < 65536)
  | .bufInit => true
  | .blit char _ => decide (char < 256)
  | .present => true
  | .clear => true

/-- The command term has a command word. -/
abbrev Instr.WellFormed (i : Instr) : Prop := i.wellFormed = true

end Sys2Proof
end

