-- ==== Sys2Proof/Decode.lean ====
section
/-! DEFINITION. Bit fields (00 R8, R9), the decoder of command words (30 R83) and, after it, the encoder (30 R81, R88)
and the opcode map (30 R84). -/

namespace Sys2Proof

/-- `w[lo+n-1:lo]` as an unsigned number: `zext_n` of the field (00 R8, R9). -/
def field (w : Word) (lo n : Nat) : Nat := w.toNat / 2 ^ lo % 2 ^ n

/-- `sext_n`: the `n`-bit number `v` read as two's complement (00 R9). -/
def sext (n v : Nat) : Int := if v < 2 ^ (n - 1) then v else v - 2 ^ n

/-- Bit `k` of a word, as a flag (00 R8). -/
def flagBit (w : Word) (k : Nat) : Bool := field w k 1 == 1

/-- `OP`, the bits [31:24] of a command word (30 R80). -/
def opField (w : Word) : Byte := BitVec.ofNat 8 (field w 24 8)

/-- Why a word is no command. Both are ILLEGAL_COMMAND to the engine (30 R85). -/
inductive Reject where
  /-- OP 0x09 to 0xFF is reserved (30 R85). -/
  | reservedOp
  /-- A reserved bit of the word's format is not zero (30 R81, R85). -/
  | reservedBits
  deriving DecidableEq, Repr

/-- The CSEL field's four values: "Every 2-bit value is defined" (42 R150). -/
def Csel.ofField : Nat → Csel
  | 0 => .fg
  | 1 => .outline
  | 2 => .shadow
  | _ => .grad

/-- The value of the CSEL field (42 R150). -/
def Csel.code : Csel → Nat
  | .fg => 0
  | .outline => 1
  | .shadow => 2
  | .grad => 3

/-- A word whose reserved bits, here the number `reserved`, are all zero is the command `i` (30 R83). -/
def whenZero (reserved : Nat) (i : Instr) : Except Reject Instr :=
  if reserved = 0 then .ok i else .error .reservedBits

/-- The common decode of 30 R83: total, and every word is one command or is rejected. -/
def decode (w : Word) : Except Reject Instr :=
  match field w 24 8 with
  | 0x00 => whenZero (field w 0 24) .nop
  | 0x01 => whenZero (field w 8 16) (.fontLoad (field w 0 8))
  | 0x02 => whenZero (field w 0 24) .measure
  | 0x03 => whenZero (field w 0 24) .draw
  | 0x04 => whenZero (field w 16 8) (.sample (field w 0 16))
  | 0x05 => whenZero (field w 0 24) .bufInit
  | 0x06 => whenZero (field w 10 14) (.blit (field w 0 8) (Csel.ofField (field w 8 2)))
  | 0x07 => whenZero (field w 0 24) .present
  | 0x08 => whenZero (field w 0 24) .clear
  | _ => .error .reservedOp

/-- The command the decoder reads from an instruction of spec/opcode_table.json whose bits are `w`: a command is one
32-bit word (30 R80), so the `nbits` the table gives a row are all of it. -/
def decodeTableWord (_nbits w : Nat) : Option Instr :=
  (decode (BitVec.ofNat 32 w)).toOption

/-- The OP of a command (30 R84). -/
def Instr.opcode : Instr → Nat
  | .nop => 0x00
  | .fontLoad _ => 0x01
  | .measure => 0x02
  | .draw => 0x03
  | .sample _ => 0x04
  | .bufInit => 0x05
  | .blit _ _ => 0x06
  | .present => 0x07
  | .clear => 0x08

/-- The bits [23:0] of a command's word (30 R81, R88). -/
def Instr.operandBits : Instr → Nat
  | .nop => 0
  | .fontLoad slot => slot
  | .measure => 0
  | .draw => 0
  | .sample scanline => scanline
  | .bufInit => 0
  | .blit char csel => csel.code * 256 + char
  | .present => 0
  | .clear => 0

/-- The command word of a well-formed command (30 R81, R88). -/
def encode (i : Instr) : Word := BitVec.ofNat 32 (i.opcode * 2 ^ 24 + i.operandBits)

/-- Assembling a command statement: its word, or an assembly error (30 R88). -/
def assemble (i : Instr) : Option Word := if i.wellFormed then some (encode i) else none

/-- A row of the opcode map (30 R84): `w &&& mask = match` selects the command. -/
structure OpcodeRow where
  mnemonic : String
  matchWord : Word
  mask : Word
  deriving DecidableEq, Repr

/-- The row of 30 R84 that selects a command. -/
def Instr.row : Instr → OpcodeRow
  | .nop => ⟨"nop", 0x00000000, 0xFFFFFFFF⟩
  | .fontLoad _ => ⟨"font.load", 0x01000000, 0xFFFFFF00⟩
  | .measure => ⟨"measure", 0x02000000, 0xFFFFFFFF⟩
  | .draw => ⟨"draw", 0x03000000, 0xFFFFFFFF⟩
  | .sample _ => ⟨"sample", 0x04000000, 0xFFFF0000⟩
  | .bufInit => ⟨"buf.init", 0x05000000, 0xFFFFFFFF⟩
  | .blit _ _ => ⟨"blit", 0x06000000, 0xFFFFFC00⟩
  | .present => ⟨"present", 0x07000000, 0xFFFFFFFF⟩
  | .clear => ⟨"clear", 0x08000000, 0xFFFFFFFF⟩

/-- The opcode map of 30 R84, in its order. -/
def opcodeTable : List OpcodeRow :=
  [Instr.row .nop, Instr.row (.fontLoad 0), Instr.row .measure, Instr.row .draw, Instr.row (.sample 0),
   Instr.row .bufInit, Instr.row (.blit 0 .fg), Instr.row .present, Instr.row .clear]

/-- The word is selected by the row (30 R84). -/
abbrev OpcodeRow.Selects (row : OpcodeRow) (w : Word) : Prop := w &&& row.mask = row.matchWord

end Sys2Proof
end

