-- ==== Sys2Proof/Config.lean ====
section
/-! DEFINITION. The implementation parameters of the block (00 R7), the fixed places of the address map (20 R62)
and the free values the spec leaves unspecified (93 U1, U3, U4, U5, U12, U14). -/

namespace Sys2Proof

/-- The parameters of 00 R7. "A model takes each as an argument": State carries them and no step changes them (log 1). -/
structure Params where
  /-- `N_FONT_SLOTS`: number of glyph-memory font slots. -/
  fontSlots : Nat
  /-- `MAX_TEXT`: size in bytes of the text memory. -/
  maxText : Nat
  /-- `MAX_PALETTE`: number of palette memory entries. -/
  maxPalette : Nat
  /-- `MAX_W`: largest pixel-buffer width. -/
  maxW : Nat
  /-- `MAX_H`: largest pixel-buffer height. -/
  maxH : Nat
  /-- `FONT_MAGIC[0]`. -/
  magic0 : Byte
  /-- `FONT_MAGIC[1]`. -/
  magic1 : Byte
  /-- `FONT_MAGIC[2]`. -/
  magic2 : Byte
  deriving DecidableEq, Repr

/-- The legal ranges of 00 R7. -/
abbrev Params.Legal (p : Params) : Prop :=
  (1 ≤ p.fontSlots ∧ p.fontSlots ≤ 32) ∧ (1 ≤ p.maxText ∧ p.maxText ≤ 4096) ∧
  (2 ≤ p.maxPalette ∧ p.maxPalette ≤ 64) ∧ (1 ≤ p.maxW ∧ p.maxW ≤ 2048) ∧ (1 ≤ p.maxH ∧ p.maxH ≤ 1024)

namespace Config

/-- FREE VALUE (log 2): the three signature bytes, whose values the spec leaves OPEN (92 D13, 93 U12). -/
opaque fontMagic : Nat → Byte

/-- FREE VALUE (log 6): byte `a` of the aperture, where the spec says its value is unspecified (20 R71; 93 U3, U4, U5),
for draw number `n`. -/
opaque freeByte : (n : Nat) → (a : Nat) → Byte

/-- FREE VALUE (log 7): the value of a host read made while BUSY = 1 (20 R70, 93 U1), for draw number `n`. -/
opaque freeWord : (n : Nat) → Word

/-- FREE VALUE (logs 8 and 10): a choice the spec leaves open (93 U14), for draw number `n`. -/
opaque freeBit : (n : Nat) → Bool

/-- The default parameters of 00 R7, with the signature bytes free (logs 1 and 2). -/
def defaults : Params where
  fontSlots := 8
  maxText := 256
  maxPalette := 16
  maxW := 2048
  maxH := 1024
  magic0 := fontMagic 0
  magic1 := fontMagic 1
  magic2 := fontMagic 2

/-- First byte of the palette window (20 R62). -/
abbrev palBase : Nat := 0x100

/-- First byte of the staging window (20 R62). -/
abbrev stageBase : Nat := 0x1000

/-- First byte of the text window (20 R62). -/
abbrev textBase : Nat := 0x2000

/-- First byte of the glyph window (20 R62). -/
abbrev glyphBase : Nat := 0x10000

/-- First byte of the pixel window (20 R62). -/
abbrev pixBase : Nat := 0x800000

/-- Size of the staging memory (00 R7, 10 R45). -/
abbrev stageSize : Nat := 4096

/-- Bytes of one font slot (00 R6, 10 R48). -/
abbrev fontBytes : Nat := 2048

/-- The constant of the ID register (10 R21). -/
abbrev idValue : Word := 0x01425247

end Config

end Sys2Proof
end

