-- ==== Sys2Proof/Machine/State.lean ====
section
/-! DEFINITION. The state of the block (10), its inputs and outputs (00 R5), its outcomes, and the state after reset
(70 R220). -/

namespace Sys2Proof.Machine

/-- A memory of bytes at aperture addresses, addresses strictly rising. An address that is not listed holds no value the
spec gives (10 R45 to R48: unspecified until written); whoever reads it draws a free value (log 6). -/
abbrev Memory := List Host.Cell

/-- The command errors of 60 R200. -/
inductive CmdError where
  /-- 1 INVALID_FORMAT: FONT_LEN < 8 or a header mismatch (FONT_LOAD). -/
  | invalidFormat
  /-- 2 TRUNCATED: good header and FONT_LEN < 2056 (FONT_LOAD). -/
  | truncated
  /-- 3 FONT_NOT_FOUND: no valid named slot and no default font (DRAW, BLIT). -/
  | fontNotFound
  /-- 4 ILLEGAL_COMMAND: reserved OP or bits, or a FONT_LOAD slot that does not exist. -/
  | illegalCommand
  /-- 5 PARAM: FONT_LEN, PAL_COUNT or TEXT_LEN above its bound, where it is used. -/
  | param
  /-- 6 TOO_LARGE: a buffer beyond MAX_W or MAX_H (BUF_INIT, DRAW). -/
  | tooLarge
  deriving DecidableEq, Repr

/-- STATUS less BUSY, which is the view "PENDING is non-empty" (10 R23, R50; log 12). -/
structure Status where
  done : Bool
  noop : Bool
  err : Option CmdError
  lastOp : Byte
  deriving DecidableEq, Repr

/-- The read-write registers (20 R62), whole words; reserved bits hold 0 (10 R53). -/
structure Regs where
  /-- 10 R26. -/
  fontSel : Word
  /-- 10 R27. -/
  fontLen : Word
  /-- 10 R28. -/
  textLen : Word
  /-- 10 R29. -/
  pos : Word
  /-- 10 R30. -/
  scale : Word
  /-- 10 R31. -/
  effects : Word
  /-- 10 R34. -/
  outline : Word
  /-- 10 R35. -/
  shadow : Word
  /-- 10 R33. -/
  colorFg : Word
  /-- 10 R33. -/
  colorBg : Word
  /-- 10 R33. -/
  colorOutline : Word
  /-- 10 R33. -/
  colorShadow : Word
  /-- 10 R36. -/
  palCount : Word
  /-- 10 R37. -/
  gradOffset : Word
  /-- 10 R38. -/
  sampleH : Word
  /-- 10 R40. -/
  blitOrigin : Word
  /-- 10 R41. -/
  bufReq : Word
  /-- 10 R44. -/
  clearXY : Word
  /-- 10 R44. -/
  clearWH : Word
  deriving DecidableEq, Repr

/-- An event of the surface log (10 R52). -/
inductive SurfaceEvent where
  /-- A finished buffer committed at (x, y), its pixels in row-major order. -/
  | put (x y : Int) (w h : Nat) (pixels : List Color)
  /-- A request to clear a rectangle. -/
  | clear (x y : Int) (w h : Nat)
  deriving DecidableEq, Repr

/-- The width of a host access: 1, 2 or 4 bytes (20 R61). -/
inductive Width where
  | w8
  | w16
  | w32
  deriving DecidableEq, Repr

/-- What the host does next (00 R5, 30 R87, R89; 70 R220). -/
inductive HostOp where
  /-- `rd8`, `rd16`, `rd32` of an address. -/
  | read (w : Width) (a : Addr)
  /-- `wr8`, `wr16`, `wr32` of an address; the low 8, 16 or 32 bits of the data are written. -/
  | write (w : Width) (a : Addr) (v : Word)
  /-- `wait`: read STATUS until BUSY = 0 (30 R89; log 13). -/
  | wait
  /-- The reset input is asserted and released (70 R220; log 10). -/
  | reset
  deriving DecidableEq, Repr

/-- The answer to one host access (20 R61, R64). -/
inductive Reply where
  /-- A read's data, zero-extended to 32 bits. -/
  | data (v : Word)
  /-- A write was taken, or was ignored because its register is read-only (20 R68). -/
  | ack
  /-- A bus error (20 R64). -/
  | busError
  /-- The data of one STATUS read of a `wait` (30 R89). -/
  | polled (v : Word)
  deriving DecidableEq, Repr

/-- The two agents that take steps (00 R5). -/
inductive Agent where
  | host
  | engine
  deriving DecidableEq, Repr

/-- The machine: what the spec names (10), the parameters (00 R7), and the model's inputs, outputs and free-value counter. -/
structure State where
  /-- The implementation parameters (00 R7, log 1). -/
  params : Params
  /-- PENDING (10 R50). -/
  pending : Option Word
  /-- STATUS less BUSY (10 R23). -/
  status : Status
  /-- FONT_VALID (10 R24). -/
  fontValid : Word
  /-- FONT_DEFAULT: DSLOT where DVALID = 1 (10 R25; log 16). -/
  fontDefault : Option Byte
  /-- The read-write registers. -/
  regs : Regs
  /-- SAMPLE_RESULT (10 R39). -/
  sampleResult : Word
  /-- OUT_W (10 R42). -/
  outW : Word
  /-- OUT_H (10 R42). -/
  outH : Word
  /-- BUF_CUR (10 R43). -/
  bufCur : Word
  /-- STAGE, TEXT, PAL and GLYPH, at their aperture addresses (10 R45 to R48). -/
  mem : Memory
  /-- PIX: the pixels of the BUF_CUR.W × BUF_CUR.H buffer in row-major order (10 R49; log 11). -/
  pix : List Color
  /-- The surface log, oldest event first (10 R52). -/
  surface : List SurfaceEvent
  /-- The host's accesses still to come (log 3). -/
  host : List HostOp
  /-- The answers the host has had, oldest first (log 3). -/
  replies : List Reply
  /-- Which agents take the next steps (log 4). -/
  sched : List Agent
  /-- How many draws of free values were made (log 6). -/
  draws : Nat
  deriving DecidableEq, Repr

/-- Reasons the machine stops with a fault: none. A command error is recorded in STATUS and the machine goes on (60 R202,
R207), a bus error is the answer to one access (20 R64), and the spec names nothing else. -/
inductive Fault where
  deriving DecidableEq, Repr

/-- Reasons a step has no meaning. -/
inductive Refusal where
  /-- Raised by `exec` for a command that has no meaning yet: none in this model. Safe. -/
  | notModelled (mnemonic : String)
  /-- Raised by the host's turn when the host writes any address while BUSY = 1: "A model refuses a host write made while
  BUSY = 1" (70 R225, 93 U2; log 9). Safe. -/
  | hostWriteWhileBusy
  deriving DecidableEq, Repr

/-- The read-write registers after reset (70 R220). -/
def Regs.reset : Regs where
  fontSel := 0x00000100
  fontLen := 0
  textLen := 0
  pos := 0
  scale := 0x00000101
  effects := 0
  outline := 0
  shadow := 0
  colorFg := 0xFFFFFFFF
  colorBg := 0xFFFFFFFF
  colorOutline := 0xFFFFFFFF
  colorShadow := 0xFFFFFFFF
  palCount := 0
  gradOffset := 0
  sampleH := 0
  blitOrigin := 0
  bufReq := 0
  clearXY := 0
  clearWH := 0

/-- STATUS after reset: 0x00000000 (70 R220). -/
def Status.reset : Status where
  done := false
  noop := false
  err := none
  lastOp := 0

/-- The block of parameters `p` right after reset (70 R220), with nothing for the host to do (log 3). -/
def State.resetWith (p : Params) : State where
  params := p
  pending := none
  status := Status.reset
  fontValid := 0
  fontDefault := none
  regs := Regs.reset
  sampleResult := 0
  outW := 0
  outH := 0
  bufCur := 0
  mem := []
  pix := []
  surface := []
  host := []
  replies := []
  sched := []
  draws := 0

/-- The machine right after reset (70 R220), with the default parameters of 00 R7 (log 1). -/
def State.reset : State := State.resetWith Config.defaults

end Sys2Proof.Machine
end

