-- ==== Sys2Proof/Machine/Ops.lean ====
section
/-! DEFINITION. The shared operations: the byte memories (20 R77), the command hand-over (70 R221), the end of every
command with its error (60 R201, R202), and the surface port (10 R52). -/

namespace Sys2Proof.Machine

/-! ### Byte memories -/

/-- The canonical form: addresses strictly rising, so equal memories are equal lists. -/
abbrev Memory.wf (m : Memory) : Prop := m.Pairwise (fun c d => c.1 < d.1)

/-- The byte listed at an address, or none where the address holds nothing the spec gives. -/
def Memory.read : Memory → Nat → Option Byte
  | [], _ => none
  | c :: m, a => if c.1 = a then some c.2 else Memory.read m a

/-- Set one byte, keeping the addresses rising. -/
def Memory.write : Memory → Nat → Byte → Memory
  | [], a, v => [(a, v)]
  | c :: m, a, v =>
    if a < c.1 then (a, v) :: c :: m
    else if a = c.1 then (a, v) :: m
    else c :: Memory.write m a v

/-- The cells of consecutive bytes from an address. -/
def cellsFrom : Nat → List Byte → Memory
  | _, [] => []
  | a, v :: vs => (a, v) :: cellsFrom (a + 1) vs

/-- Set consecutive bytes from an address, all at once. -/
def Memory.fill (m : Memory) (a : Nat) (vs : List Byte) : Memory :=
  m.filter (fun c => decide (c.1 < a)) ++ cellsFrom a vs ++ m.filter (fun c => decide (a + vs.length ≤ c.1))

/-- A list of bytes, the first in bits [7:0] (20 R65). -/
def littleEndian : List Byte → Nat
  | [] => 0
  | v :: vs => v.toNat + 256 * littleEndian vs

/-- Byte `k` of a word in little-endian order (20 R65). -/
def byteOfWord (w : Word) (k : Nat) : Byte := BitVec.ofNat 8 (field w (8 * k) 8)

/-- The byte a command reads at an aperture address: the listed one, or, where the host has not written it since reset, a
free value (20 R71, 93 U3; log 6). -/
def State.byteIn (s : State) (a : Nat) : Byte := (s.mem.read a).getD (Config.freeByte s.draws a)

/-- `StageByte(i)` (20 R77). -/
def State.stageByte (s : State) (i : Nat) : Byte := s.byteIn (Config.stageBase + i)

/-- `TextChar(k)` (20 R77). -/
def State.textChar (s : State) (k : Nat) : Nat := (s.byteIn (Config.textBase + k)).toNat

/-- The aperture address of `GLYPH[slot][0]` (20 R62). -/
def glyphAddr (slot : Nat) : Nat := Config.glyphBase + Config.fontBytes * slot

/-- `GlyphRow(slot, c, r)` (20 R77). -/
def State.glyphRow (s : State) (slot c r : Nat) : Byte := s.byteIn (glyphAddr slot + (8 * c + r))

/-- The palette word at entry `e` (10 R47), in the byte order of 20 R65. -/
def State.palWord (s : State) (e : Nat) : Word :=
  BitVec.ofNat 32 (littleEndian ((List.range 4).map fun k => s.byteIn (Config.palBase + 4 * e + k)))

/-! ### The command interface -/

/-- STATUS.BUSY: "1 exactly when PENDING is non-empty" (10 R50). -/
def State.busy (s : State) : Bool := s.pending.isSome

/-- The hand-over of a command: PENDING <- w, BUSY <- 1, DONE <- 0; ERR, NOOP and LASTOP keep their values (70 R221). -/
def State.handOver (s : State) (w : Word) : State :=
  { s with pending := some w, status := { s.status with done := false } }

/-- The end of every command (60 R201): ERR, NOOP, LASTOP, DONE <- 1, BUSY <- 0 and PENDING <- empty in one step. The
free-value counter moves on with it (log 6). -/
def State.endCommand (s : State) (op : Byte) (err : Option CmdError) (noop : Bool) : State :=
  { s with
    pending := none
    status := { done := true, noop := noop, err := err, lastOp := op }
    draws := s.draws + 1 }

/-- How a command's own rule ends: with all its writes made, as a no-op DRAW or PRESENT, or raising an error. -/
inductive CmdResult where
  | ok (s : State)
  | noop (s : State)
  | raise (e : CmdError)
  deriving DecidableEq, Repr

/-- Perform the end of the command with opcode `op`, handed over in state `s`. A raised error keeps nothing the command
might have written: everything but STATUS stays as it was (00 R11, 60 R202). This is the whole of "taking an error": there
is no trap entry (60 R206) and no return (60 R207). -/
def finish (op : Byte) (s : State) : CmdResult → State
  | .ok t => t.endCommand op none false
  | .noop t => t.endCommand op none true
  | .raise e => s.endCommand op (some e) false

/-- `finish`, as the outcome of a step: every command ends in a next state (70 R222). -/
def complete (i : Instr) (s : State) (r : CmdResult) : Host.Outcome State Fault Refusal :=
  .next (finish (BitVec.ofNat 8 i.opcode) s r)

/-- `emit` (00 R10): append one event to the surface log. -/
def State.emit (s : State) (e : SurfaceEvent) : State := { s with surface := s.surface ++ [e] }

/-! ### Result writes of the engine -/

/-- OUT_W <- w; OUT_H <- h (10 R42). -/
def State.setOutSize (s : State) (w h : Nat) : State :=
  { s with outW := BitVec.ofNat 32 w, outH := BitVec.ofNat 32 h }

/-- The word of two 16-bit fields, `{hi, lo}` (00 R8). -/
def pairWord (lo hi : Nat) : Word := BitVec.ofNat 32 (hi % 65536 * 65536 + lo % 65536)

/-- BUF_CUR <- {W = w, H = h} and the pixels of the new buffer (10 R43, R49). -/
def State.setBuffer (s : State) (w h : Nat) (pixels : List Color) : State :=
  { s with bufCur := pairWord w h, pix := pixels }

/-- SAMPLE_RESULT <- w (10 R39). -/
def State.setSample (s : State) (w : Word) : State := { s with sampleResult := w }

/-- Commit a font: its 2048 bytes, FONT_VALID[slot] <- 1 and, if there is no default font, FONT_DEFAULT <- slot (40 R101,
R103). -/
def State.commitFont (s : State) (slot : Nat) (bytes : List Byte) : State :=
  { s with
    mem := s.mem.fill (glyphAddr slot) bytes
    fontValid := s.fontValid ||| BitVec.ofNat 32 (2 ^ slot)
    fontDefault := s.fontDefault.or (some (BitVec.ofNat 8 slot)) }

end Sys2Proof.Machine
end

