-- ==== Sys2Proof/Machine/Flags.lean ====
section
/-! DEFINITION. The status word: the block's only status bits (10 R20, R23) and the error codes (60 R200). -/

namespace Sys2Proof.Machine

/-- The code of an error (60 R200). -/
def CmdError.code : CmdError → Nat
  | .invalidFormat => 1
  | .truncated => 2
  | .fontNotFound => 3
  | .illegalCommand => 4
  | .param => 5
  | .tooLarge => 6

/-- STATUS.ERR: the error code of the last command performed, 0 if it succeeded (10 R23). -/
def Status.errCode (t : Status) : Nat :=
  match t.err with
  | none => 0
  | some e => e.code

/-- STATUS as the host reads it (10 R23): BUSY bit 0, DONE bit 1, NOOP bit 2, ERR [7:4], LASTOP [15:8], the rest 0. -/
def State.statusWord (s : State) : Word :=
  BitVec.ofNat 32
    (s.busy.toNat + 2 * s.status.done.toNat + 4 * s.status.noop.toNat + 16 * s.status.errCode
      + 256 * s.status.lastOp.toNat)

end Sys2Proof.Machine
end

