-- ==== Sys2Proof/Machine/Operands.lean ====
section
/-! DEFINITION. The operands of the commands: colour words (10 R32), the fields of the parameter registers (10 R26 to R44),
the palette (41 R124), and the font a command reads (40 R104). -/

namespace Sys2Proof.Machine

/-! ### Colours -/

/-- `color(w)` (10 R32). -/
def color (w : Word) : Color where
  r := BitVec.ofNat 8 (field w 0 8)
  g := BitVec.ofNat 8 (field w 8 8)
  b := BitVec.ofNat 8 (field w 16 8)
  a := BitVec.ofNat 8 (field w 24 8)

/-- `word(r, g, b, a)` (10 R32). -/
def colorWord (c : Color) : Word :=
  BitVec.ofNat 32 (c.r.toNat + 256 * c.g.toNat + 65536 * c.b.toNat + 16777216 * c.a.toNat)

/-- "Opaque white" (41 R121). -/
def opaqueWhite : Color := ⟨255, 255, 255, 255⟩

/-- Transparent black, (0, 0, 0, 0) (43 R164). -/
def transparent : Color := ⟨0, 0, 0, 0⟩

/-! ### Register fields -/

/-- FONT_SEL.SLOT (10 R26). -/
def Regs.selSlot (r : Regs) : Nat := field r.fontSel 0 8

/-- FONT_SEL.USE_DEFAULT (10 R26). -/
def Regs.useDefault (r : Regs) : Bool := flagBit r.fontSel 8

/-- FONT_LEN.LEN (10 R27). -/
def Regs.fontLenBytes (r : Regs) : Nat := field r.fontLen 0 16

/-- TEXT_LEN.LEN (10 R28). -/
def Regs.textChars (r : Regs) : Nat := field r.textLen 0 16

/-- `sext_16(POS.X)` (10 R29). -/
def Regs.posX (r : Regs) : Int := sext 16 (field r.pos 0 16)

/-- `sext_16(POS.Y)` (10 R29). -/
def Regs.posY (r : Regs) : Int := sext 16 (field r.pos 16 16)

/-- SCALE.SX (10 R30). -/
def Regs.scaleX (r : Regs) : Nat := field r.scale 0 8

/-- SCALE.SY (10 R30). -/
def Regs.scaleY (r : Regs) : Nat := field r.scale 8 8

/-- EFFECTS.BG_EN (10 R31). -/
def Regs.bgEn (r : Regs) : Bool := flagBit r.effects 0

/-- EFFECTS.OUTLINE_EN (10 R31). -/
def Regs.outlineEn (r : Regs) : Bool := flagBit r.effects 1

/-- EFFECTS.SHADOW_EN (10 R31). -/
def Regs.shadowEn (r : Regs) : Bool := flagBit r.effects 2

/-- EFFECTS.GRAD_EN (10 R31). -/
def Regs.gradEn (r : Regs) : Bool := flagBit r.effects 3

/-- OUTLINE.T (10 R34). -/
def Regs.outlineT (r : Regs) : Nat := field r.outline 0 8

/-- `sext_8(SHADOW.DX)` (10 R35). -/
def Regs.shadowDX (r : Regs) : Int := sext 8 (field r.shadow 0 8)

/-- `sext_8(SHADOW.DY)` (10 R35). -/
def Regs.shadowDY (r : Regs) : Int := sext 8 (field r.shadow 8 8)

/-- PAL_COUNT.N (10 R36). -/
def Regs.palN (r : Regs) : Nat := field r.palCount 0 8

/-- `sext_32(GRAD_OFFSET)`: the gradient offset in units of 1/65536 (10 R37). -/
def Regs.gradO (r : Regs) : Int := sext 32 (field r.gradOffset 0 32)

/-- SAMPLE_H.H (10 R38). -/
def Regs.sampleHeight (r : Regs) : Nat := field r.sampleH 0 16

/-- `sext_16(BLIT_ORIGIN.X)` (10 R40). -/
def Regs.originX (r : Regs) : Int := sext 16 (field r.blitOrigin 0 16)

/-- `sext_16(BLIT_ORIGIN.Y)` (10 R40). -/
def Regs.originY (r : Regs) : Int := sext 16 (field r.blitOrigin 16 16)

/-- BUF_REQ.W (10 R41). -/
def Regs.reqW (r : Regs) : Nat := field r.bufReq 0 16

/-- BUF_REQ.H (10 R41). -/
def Regs.reqH (r : Regs) : Nat := field r.bufReq 16 16

/-- `sext_16(CLEAR_XY.X)` (10 R44). -/
def Regs.clearX (r : Regs) : Int := sext 16 (field r.clearXY 0 16)

/-- `sext_16(CLEAR_XY.Y)` (10 R44). -/
def Regs.clearY (r : Regs) : Int := sext 16 (field r.clearXY 16 16)

/-- CLEAR_WH.W (10 R44). -/
def Regs.clearW (r : Regs) : Nat := field r.clearWH 0 16

/-- CLEAR_WH.H (10 R44). -/
def Regs.clearH (r : Regs) : Nat := field r.clearWH 16 16

/-- BUF_CUR.W (10 R43). -/
def State.bufW (s : State) : Nat := field s.bufCur 0 16

/-- BUF_CUR.H (10 R43). -/
def State.bufH (s : State) : Nat := field s.bufCur 16 16

/-! ### The palette and the fill colour -/

/-- The palette of a command, `[PalEntry(0), ..., PalEntry(N - 1)]` (41 R124, 20 R77). -/
def State.palette (s : State) : List Color := (List.range s.regs.palN).map fun e => color (s.palWord e)

/-- The palette is longer than the palette memory: Error(PARAM) where the palette is used (41 R124). -/
def State.paletteTooLong (s : State) : Bool := decide (s.params.maxPalette < s.regs.palN)

/-- The initial colour of a new buffer (42 R148, 43 R164). -/
def Regs.fillColor (r : Regs) : Color := if r.bgEn then color r.colorBg else transparent

/-! ### The font -/

/-- FONT_VALID[slot], 0 for a slot that does not exist (10 R24). -/
def State.slotValid (s : State) (slot : Nat) : Bool :=
  decide (slot < s.params.fontSlots) && flagBit s.fontValid slot

/-- `resolve_font()`: the slot a DRAW or BLIT reads, or none for Error(FONT_NOT_FOUND) (40 R104). -/
def State.resolveFont (s : State) : Option Nat :=
  if !s.regs.useDefault && s.slotValid s.regs.selSlot then some s.regs.selSlot
  else s.fontDefault.map BitVec.toNat

/-! ### Sizes of a text -/

/-- The effective effect parameters (43 R160). -/
structure Effective where
  sx : Nat
  sy : Nat
  t : Nat
  dx : Int
  dy : Int
  deriving DecidableEq, Repr

/-- The effective effect parameters of a MEASURE or DRAW: a disabled effect contributes nothing (43 R160). -/
def Regs.effective (r : Regs) : Effective where
  sx := r.scaleX
  sy := r.scaleY
  t := if r.outlineEn then r.outlineT else 0
  dx := if r.shadowEn then r.shadowDX else 0
  dy := if r.shadowEn then r.shadowDY else 0

/-- extraX, the maximum and not the sum (43 R161). -/
def Effective.extraX (e : Effective) : Nat := max (e.dx.natAbs * e.sx) (e.t * e.sx * 2)

/-- extraY, the maximum and not the sum (43 R161). -/
def Effective.extraY (e : Effective) : Nat := max (e.dy.natAbs * e.sy) (e.t * e.sy * 2)

/-- The width of `size(len)` (43 R162). -/
def Effective.width (e : Effective) (len : Nat) : Nat := len * 8 * e.sx + e.extraX

/-- The height of `size(len)` (43 R162). -/
def Effective.height (e : Effective) : Nat := 8 * e.sy + e.extraY

end Sys2Proof.Machine
end

