-- ==== Sys2Proof/Machine/Bus.lean ====
section
/-! DEFINITION. The host aperture: its map (20 R62), the registers as the host sees them (10), bus errors (20 R63, R67, R68),
and the reads and writes of the host (20 R61 to R71). -/

namespace Sys2Proof.Machine

/-! ### Registers -/

/-- The registers of the map (20 R62), in address order. -/
inductive Reg where
  | id | cmd | status | fontValid | fontDefault | fontSel | fontLen | textLen | pos | scale | effects | outline | shadow
  | colorFg | colorBg | colorOutline | colorShadow | palCount | gradOffset | sampleH | sampleResult | blitOrigin | bufReq
  | outW | outH | bufCur | clearXY | clearWH
  deriving DecidableEq, Repr

/-- The registers in address order: register `k` stands at `4·k` (20 R62). -/
def regMap : List Reg :=
  [.id, .cmd, .status, .fontValid, .fontDefault, .fontSel, .fontLen, .textLen, .pos, .scale, .effects, .outline, .shadow,
   .colorFg, .colorBg, .colorOutline, .colorShadow, .palCount, .gradOffset, .sampleH, .sampleResult, .blitOrigin, .bufReq,
   .outW, .outH, .bufCur, .clearXY, .clearWH]

/-- The first address beyond the registers (20 R62). -/
abbrev regEnd : Nat := 0x70

/-- The register at an aligned address below `regEnd` (20 R62). -/
def regAt (a : Nat) : Option Reg := regMap[a / 4]?

/-- The defined fields of a register; its other bits are reserved: they read 0 and writes to them are ignored (10 R53).
0 for a register the host cannot write (10 R53, 20 R68). -/
def Reg.writeMask : Reg → Word
  | .id | .cmd | .status | .fontValid | .fontDefault | .sampleResult | .outW | .outH | .bufCur => 0
  | .fontSel => 0x000001FF
  | .fontLen => 0x0000FFFF
  | .textLen => 0x0000FFFF
  | .pos => 0xFFFFFFFF
  | .scale => 0x0000FFFF
  | .effects => 0x0000000F
  | .outline => 0x000000FF
  | .shadow => 0x0000FFFF
  | .colorFg => 0xFFFFFFFF
  | .colorBg => 0xFFFFFFFF
  | .colorOutline => 0xFFFFFFFF
  | .colorShadow => 0xFFFFFFFF
  | .palCount => 0x000000FF
  | .gradOffset => 0xFFFFFFFF
  | .sampleH => 0x0000FFFF
  | .blitOrigin => 0xFFFFFFFF
  | .bufReq => 0xFFFFFFFF
  | .clearXY => 0xFFFFFFFF
  | .clearWH => 0xFFFFFFFF

/-- FONT_VALID as the host reads it: "Bits s ≥ N_FONT_SLOTS read 0" (10 R24). -/
def State.fontValidWord (s : State) : Word := s.fontValid &&& BitVec.ofNat 32 (2 ^ s.params.fontSlots - 1)

/-- FONT_DEFAULT as the host reads it: DVALID bit 31, DSLOT [7:0] (10 R25). -/
def State.fontDefaultWord (s : State) : Word :=
  match s.fontDefault with
  | none => 0
  | some slot => BitVec.ofNat 32 (0x80000000 + slot.toNat)

/-- The value a host read of a register returns while BUSY = 0 (10 R21 to R44, R53). -/
def State.readReg (s : State) : Reg → Word
  | .id => Config.idValue
  | .cmd => 0
  | .status => s.statusWord
  | .fontValid => s.fontValidWord
  | .fontDefault => s.fontDefaultWord
  | .fontSel => s.regs.fontSel &&& Reg.writeMask .fontSel
  | .fontLen => s.regs.fontLen &&& Reg.writeMask .fontLen
  | .textLen => s.regs.textLen &&& Reg.writeMask .textLen
  | .pos => s.regs.pos
  | .scale => s.regs.scale &&& Reg.writeMask .scale
  | .effects => s.regs.effects &&& Reg.writeMask .effects
  | .outline => s.regs.outline &&& Reg.writeMask .outline
  | .shadow => s.regs.shadow &&& Reg.writeMask .shadow
  | .colorFg => s.regs.colorFg
  | .colorBg => s.regs.colorBg
  | .colorOutline => s.regs.colorOutline
  | .colorShadow => s.regs.colorShadow
  | .palCount => s.regs.palCount &&& Reg.writeMask .palCount
  | .gradOffset => s.regs.gradOffset
  | .sampleH => s.regs.sampleH &&& Reg.writeMask .sampleH
  | .sampleResult => s.sampleResult
  | .blitOrigin => s.regs.blitOrigin
  | .bufReq => s.regs.bufReq
  | .outW => s.outW
  | .outH => s.outH
  | .bufCur => s.bufCur
  | .clearXY => s.regs.clearXY
  | .clearWH => s.regs.clearWH

/-- A host write of `v` to a read-write register: only the defined fields are stored (10 R53); a register of another kind
is left alone (20 R68). -/
def Regs.store (g : Regs) (r : Reg) (v : Word) : Regs :=
  let u := v &&& r.writeMask
  match r with
  | .id | .cmd | .status | .fontValid | .fontDefault | .sampleResult | .outW | .outH | .bufCur => g
  | .fontSel => { g with fontSel := u }
  | .fontLen => { g with fontLen := u }
  | .textLen => { g with textLen := u }
  | .pos => { g with pos := u }
  | .scale => { g with scale := u }
  | .effects => { g with effects := u }
  | .outline => { g with outline := u }
  | .shadow => { g with shadow := u }
  | .colorFg => { g with colorFg := u }
  | .colorBg => { g with colorBg := u }
  | .colorOutline => { g with colorOutline := u }
  | .colorShadow => { g with colorShadow := u }
  | .palCount => { g with palCount := u }
  | .gradOffset => { g with gradOffset := u }
  | .sampleH => { g with sampleH := u }
  | .blitOrigin => { g with blitOrigin := u }
  | .bufReq => { g with bufReq := u }
  | .clearXY => { g with clearXY := u }
  | .clearWH => { g with clearWH := u }

/-- A host write to a register while BUSY = 0: CMD hands over a command (10 R22), a read-write register stores (10 R53), a
read-only register ignores it (20 R68). -/
def State.writeReg (s : State) (r : Reg) (v : Word) : State :=
  if r = .cmd then s.handOver v else { s with regs := s.regs.store r v }

/-! ### Memory windows -/

/-- The memory windows of the map (20 R62). -/
inductive Window where
  | pal
  | stage
  | text
  | glyph
  | pix
  deriving DecidableEq, Repr

/-- The window an address lies in, within its bound (20 R62, R67). -/
def windowAt (p : Params) (a : Nat) : Option Window :=
  if Config.palBase ≤ a ∧ a < Config.palBase + 4 * p.maxPalette then some .pal
  else if Config.stageBase ≤ a ∧ a < Config.stageBase + Config.stageSize then some .stage
  else if Config.textBase ≤ a ∧ a < Config.textBase + p.maxText then some .text
  else if Config.glyphBase ≤ a ∧ a < Config.glyphBase + Config.fontBytes * p.fontSlots then some .glyph
  else if Config.pixBase ≤ a ∧ a < Config.pixBase + 4 * p.maxW * p.maxH then some .pix
  else none

/-- The host may write the window; a write to GLYPH or PIX is a bus error (20 R68). -/
def Window.writable : Window → Bool
  | .pal | .stage | .text => true
  | .glyph | .pix => false

/-- Channel `k` of a pixel: its bytes in ascending order are R, G, B, A (10 R49). -/
def channel (c : Color) : Nat → Byte
  | 0 => c.r
  | 1 => c.g
  | 2 => c.b
  | _ => c.a

/-- PIX byte `j`, where it is part of the current buffer (10 R49, 20 R71). -/
def State.pixByte (s : State) (j : Nat) : Option Byte :=
  if j < 4 * (s.bufW * s.bufH) then s.pix[j / 4]?.map fun c => channel c (j % 4) else none

/-- The byte the block holds at an address of a memory window, or none where its value is unspecified (20 R71): a STAGE,
TEXT or PAL byte not written since reset, a GLYPH byte of a slot that is not valid, a PIX byte outside the buffer. -/
def State.byteAt (s : State) (a : Nat) : Option Byte :=
  match windowAt s.params a with
  | none => none
  | some .glyph => if s.slotValid ((a - Config.glyphBase) / Config.fontBytes) then s.mem.read a else none
  | some .pix => s.pixByte (a - Config.pixBase)
  | some _ => s.mem.read a

/-! ### Accesses -/

/-- Bytes of an access (20 R61). -/
def Width.bytes : Width → Nat
  | .w8 => 1
  | .w16 => 2
  | .w32 => 4

/-- A value cut to the width of an access. -/
def Width.cut (w : Width) (v : Word) : Word := BitVec.ofNat 32 (field v 0 (8 * w.bytes))

/-- A read of the address and width gets no bus error (20 R63, R67): a register takes an aligned 32-bit access only; in the
windows an access is naturally aligned and every byte it covers is mapped. -/
def readOk (p : Params) (w : Width) (a : Nat) : Bool :=
  if a < regEnd then decide (w = .w32 ∧ a % 4 = 0)
  else decide (a % w.bytes = 0) && (List.range w.bytes).all fun k => (windowAt p (a + k)).isSome

/-- A write of the address and width gets no bus error (20 R63, R67, R68): as a read, and the window is writable. -/
def writeOk (p : Params) (w : Width) (a : Nat) : Bool :=
  readOk p w a && (decide (a < regEnd) || ((windowAt p a).map Window.writable).getD false)

/-- The byte a host read returns at an address: the held one, else a free value (20 R71; log 6). -/
def State.readByte (s : State) (a : Nat) : Byte := (s.byteAt a).getD (Config.freeByte s.draws a)

/-- The data of a host read that gets no bus error, while BUSY = 0 (20 R65). -/
def State.readData (s : State) (w : Width) (a : Nat) : Word :=
  if a < regEnd then ((regAt a).map s.readReg).getD 0
  else BitVec.ofNat 32 (littleEndian ((List.range w.bytes).map fun k => s.readByte (a + k)))

/-- The address is one of the four of ID or of STATUS, whose reads are never free, BUSY = 1 or not (20 R70, 70 R226). -/
def alwaysDefined (a : Nat) : Bool := decide (a / 4 = 0) || decide (a / 4 = 2)

/-- The answer to a host read. While BUSY = 1, any address but ID and STATUS gives a free value (20 R70); where such an
address would be a bus error, the answer is either of the two (log 8). A narrow or misaligned read at ID or STATUS is a bus
error always (20 R63). -/
def State.busRead (s : State) (w : Width) (a : Nat) : Reply :=
  if readOk s.params w a then
    if s.busy && !alwaysDefined a then .data (w.cut (Config.freeWord s.draws)) else .data (s.readData w a)
  else if s.busy && !alwaysDefined a && Config.freeBit s.draws then .data (w.cut (Config.freeWord s.draws))
  else .busError

/-- The bytes of a host write, in ascending address order (20 R65). -/
def Memory.writeBytes (m : Memory) (a : Nat) (v : Word) (n : Nat) : Memory :=
  (List.range n).foldl (fun m k => m.write (a + k) (byteOfWord v k)) m

/-- A host write while BUSY = 0: the state it leaves and its answer. A bus error writes nothing (20 R64). -/
def State.busWrite (s : State) (w : Width) (a : Nat) (v : Word) : State × Reply :=
  if writeOk s.params w a then
    if a < regEnd then
      match regAt a with
      | some r => (s.writeReg r v, .ack)
      | none => (s, .ack)
    else ({ s with mem := s.mem.writeBytes a v w.bytes }, .ack)
  else (s, .busError)

end Sys2Proof.Machine
end

