-- ==== Sys2Proof/Machine/Gradient.lean ====
section
/-! DEFINITION. The gradient sampler and SAMPLE (41). The machine computes the integer form of 41 R125; the rational form
of 41 R122 stands beside it as `sampleExact`. -/

namespace Sys2Proof.Machine

/-- One channel of 41 R125: `V <- p*D + (q - p)*r; (2*V + D) div (2*D)`. -/
def lane (D r : Int) (p q : Byte) : Byte :=
  BitVec.ofInt 8 ((2 * ((p.toNat : Int) * D + ((q.toNat : Int) - p.toNat) * r) + D) / (2 * D))

/-- The four channels are four independent lanes, alpha included (41 R122). -/
def lanes (D r : Int) (p q : Color) : Color where
  r := lane D r p.r q.r
  g := lane D r p.g q.g
  b := lane D r p.b q.b
  a := lane D r p.a q.a

/-- `Nw` of 41 R125: the position wrapped into [0, n), in units of 1/D, for the divisor `d = max(1, H - 1)`. -/
def wrappedPos (s d n : Nat) (O : Int) : Int :=
  ((s : Int) * (n - 1) * 65536 + O * d) % (n * (65536 * d))

/-- `sample(s, H, pal, O / 65536)` (41 R120, R121, R125). -/
def sample (s H : Nat) (pal : List Color) (O : Int) : Color :=
  match pal with
  | [] => opaqueWhite
  | [p] => p
  | _ =>
    let n := pal.length
    let d := max 1 (H - 1)
    let D : Int := 65536 * d
    let Nw := wrappedPos s d n O
    let i := (Nw / D).toNat
    let j := (i + 1) % n
    lanes D (Nw % D) (pal.getD i opaqueWhite) (pal.getD j opaqueWhite)

/-- `round_half_up(q) = floor(q + 1/2)` (00 R9, 41 R123). -/
def roundHalfUp (q : ℚ) : Int := ⌊q + 1 / 2⌋

/-- One channel of 41 R122, in exact rationals. -/
def laneExact (frac : ℚ) (p q : Byte) : Byte :=
  BitVec.ofInt 8 (roundHalfUp ((p.toNat : ℚ) + ((q.toNat : ℚ) - p.toNat) * frac))

/-- `sample` in the exact rationals of 41 R122, for a rational offset. -/
def sampleExact (s H : Nat) (pal : List Color) (off : ℚ) : Color :=
  match pal with
  | [] => opaqueWhite
  | [p] => p
  | _ =>
    let n := pal.length
    let d := max 1 (H - 1)
    let t : ℚ := s / d
    let pos₀ : ℚ := t * (n - 1) + off
    let pos : ℚ := pos₀ - n * ⌊pos₀ / n⌋
    let i := ⌊pos⌋.toNat
    let j := (i + 1) % n
    let frac : ℚ := pos - i
    let p := pal.getD i opaqueWhite
    let q := pal.getD j opaqueWhite
    ⟨laneExact frac p.r q.r, laneExact frac p.g q.g, laneExact frac p.b q.b, laneExact frac p.a q.a⟩

/-- The check and the write of SAMPLE (41 R126). -/
def sampleCmdResult (scanline : Nat) (s : State) : CmdResult :=
  if s.paletteTooLong then .raise .param
  else .ok (s.setSample (colorWord (sample scanline s.regs.sampleHeight s.palette s.regs.gradO)))

/-- SAMPLE: compute one gradient colour into SAMPLE_RESULT (41 R126). -/
def execSample (scanline : Nat) (s : State) : Host.Outcome State Fault Refusal :=
  complete (.sample scanline) s (sampleCmdResult scanline s)

end Sys2Proof.Machine
end

