-- ==== Sys2Proof/Machine/Rasterizer.lean ====
section
/-! DEFINITION. The glyph rasterizer: colour sources, the blit function, BUF_INIT and BLIT (42). -/

namespace Sys2Proof.Machine

/-- A colour source (42 R140). -/
inductive Source where
  /-- One colour for every pixel. -/
  | fixed (k : Color)
  /-- The gradient sampler bound to a palette, a total height and an offset in units of 1/65536. -/
  | gradient (pal : List Color) (height : Nat) (O : Int)
  deriving DecidableEq, Repr

/-- `colour_at(src, py)`: the colour at destination row `py` (42 R140, R141). -/
def Source.colourAt : Source → Nat → Color
  | .fixed k, _ => k
  | .gradient pal height O, py => sample py height pal O

/-- A pixel buffer: W × H pixels in row-major order, top-left origin (10 R49). -/
structure Raster where
  w : Nat
  h : Nat
  pixels : List Color
  deriving DecidableEq, Repr

/-- A buffer of one colour (42 R148, 43 R164). -/
def Raster.filled (w h : Nat) (k : Color) : Raster := ⟨w, h, List.replicate (w * h) k⟩

/-- The pixel in column `px` of row `py`, at index `py·w + px` (10 R49). -/
def Raster.pixel (r : Raster) (px py : Nat) : Option Color :=
  if px < r.w ∧ py < r.h then r.pixels[py * r.w + px]? else none

/-- The coordinates lie in the buffer, as numbers; none where the pixel is clipped (42 R143). -/
def Raster.inside (r : Raster) (px py : Int) : Bool :=
  decide (0 ≤ px) && decide (px < r.w) && decide (0 ≤ py) && decide (py < r.h)

/-- One pixel write of a blit: clipped per pixel (42 R143), replacing all four channels (42 R144, 20 R77). -/
def Raster.plot (src : Source) (r : Raster) (p : Int × Int) : Raster :=
  if r.inside p.1 p.2 then
    { r with pixels := r.pixels.set (p.2.toNat * r.w + p.1.toNat) (src.colourAt p.2.toNat) }
  else r

/-- Column `col` of a glyph row byte is lit: "bit 7 = leftmost column" (10 R48, 20 R66). -/
def lit (b : Byte) (col : Nat) : Bool := b.toNat / 2 ^ (7 - col) % 2 == 1

/-- The pixels a blit fills, in the order of the loops of 42 R142: for each lit cell, its `sx × sy` block. `glyph` gives
the eight row bytes. -/
def blitPixels (glyph : Nat → Byte) (ox oy : Int) (sx sy : Nat) : List (Int × Int) :=
  (List.range 8).flatMap fun row =>
    let b := glyph row
    (List.range 8).flatMap fun col =>
      if lit b col then
        (List.range sy).flatMap fun dy =>
          (List.range sx).map fun dx => (ox + (col * sx + dx : Nat), oy + (row * sy + dy : Nat))
      else []

/-- `blit(f, c, ox, oy, sx, sy, src)` on a buffer, for the glyph's rows (42 R142). -/
def blit (glyph : Nat → Byte) (ox oy : Int) (sx sy : Nat) (src : Source) (r : Raster) : Raster :=
  (blitPixels glyph ox oy sx sy).foldl (Raster.plot src) r

/-- The current pixel buffer (10 R49). -/
def State.raster (s : State) : Raster := ⟨s.bufW, s.bufH, s.pix⟩

/-- The check and the writes of BUF_INIT (42 R148). -/
def bufInitResult (s : State) : CmdResult :=
  let w := s.regs.reqW
  let h := s.regs.reqH
  if s.params.maxW < w ∨ s.params.maxH < h then .raise .tooLarge
  else .ok (s.setBuffer w h (Raster.filled w h s.regs.fillColor).pixels)

/-- BUF_INIT: make a new pixel buffer of the requested size and fill it (42 R148). -/
def execBufInit (s : State) : Host.Outcome State Fault Refusal := complete .bufInit s (bufInitResult s)

/-- The colour source a CSEL selects (42 R149, R150). -/
def State.blitSource (s : State) : Csel → Source
  | .fg => .fixed (color s.regs.colorFg)
  | .outline => .fixed (color s.regs.colorOutline)
  | .shadow => .fixed (color s.regs.colorShadow)
  | .grad => .gradient s.palette s.bufH s.regs.gradO

/-- The checks and the writes of BLIT (42 R149). -/
def blitResult (char : Nat) (csel : Csel) (s : State) : CmdResult :=
  match s.resolveFont with
  | none => .raise .fontNotFound
  | some f =>
    if csel = .grad ∧ s.paletteTooLong then .raise .param
    else
      .ok { s with
        pix := (blit (s.glyphRow f char) s.regs.originX s.regs.originY s.regs.scaleX s.regs.scaleY
          (s.blitSource csel) s.raster).pixels }

/-- BLIT: rasterize one glyph of the selected font into the current pixel buffer (42 R149). -/
def execBlit (char : Nat) (csel : Csel) (s : State) : Host.Outcome State Fault Refusal :=
  complete (.blit char csel) s (blitResult char csel s)

end Sys2Proof.Machine
end

