-- ==== Sys2Proof/Machine/Compositor.lean ====
section
/-! DEFINITION. The text compositor: the layers of a character, MEASURE, DRAW and PRESENT (43). -/

namespace Sys2Proof.Machine

/-- What the compositor paints every character with: the effective parameters, the optional layers with their colours, and
the foreground source (43 R160, R165, R167). -/
structure Paint where
  eff : Effective
  outline : Option Color
  shadow : Option Color
  fg : Source
  deriving DecidableEq, Repr

/-- The integers from `-t` to `t` (43 R167). -/
def symRange (t : Nat) : List Int := (List.range (2 * t + 1)).map fun k => (k : Int) - t

/-- The outline's offset pairs `(ox, oy)` in [-t, t]², less (0, 0), in the order of the loops of 43 R167 (R168). -/
def outlineOffsets (t : Nat) : List (Int × Int) :=
  ((symRange t).flatMap fun oy => (symRange t).map fun ox => (ox, oy)).filter fun o => decide (o ≠ (0, 0))

/-- bx(k), the base column of character `k` (43 R163). -/
def Effective.baseX (e : Effective) (k : Nat) : Int := (k * 8 * e.sx + e.t * e.sx : Nat)

/-- by, the base row of every character (43 R163). -/
def Effective.baseY (e : Effective) : Int := (e.t * e.sy : Nat)

/-- One glyph at an offset, in cells, from the base position of character `k` (43 R167, R169). -/
def blitAt (e : Effective) (glyph : Nat → Byte) (k : Nat) (src : Source) (r : Raster) (o : Int × Int) : Raster :=
  blit glyph (e.baseX k + o.1 * e.sx) (e.baseY + o.2 * e.sy) e.sx e.sy src r

/-- Layer a, the outline (43 R167, R168). -/
def outlineLayer (p : Paint) (glyph : Nat → Byte) (k : Nat) (r : Raster) : Raster :=
  match p.outline with
  | none => r
  | some c => (outlineOffsets p.eff.t).foldl (blitAt p.eff glyph k (.fixed c)) r

/-- Layer b, the shadow (43 R167, R169). -/
def shadowLayer (p : Paint) (glyph : Nat → Byte) (k : Nat) (r : Raster) : Raster :=
  match p.shadow with
  | none => r
  | some c => blitAt p.eff glyph k (.fixed c) r (p.eff.dx, p.eff.dy)

/-- The three layers of character `k`, back to front (43 R167). -/
def composite (p : Paint) (glyph : Nat → Byte) (k : Nat) (r : Raster) : Raster :=
  blitAt p.eff glyph k p.fg (shadowLayer p glyph k (outlineLayer p glyph k r)) (0, 0)

/-- Step 6 of DRAW: the characters in text order (43 R167, R170). -/
def compositeText (p : Paint) (glyph : Nat → Nat → Byte) (len : Nat) (r : Raster) : Raster :=
  (List.range len).foldl (fun r k => composite p (glyph k) k r) r

/-- The foreground source of a DRAW into a buffer of height `h`: a gradient only with two or more colours (43 R165). -/
def State.fgSource (s : State) (h : Nat) : Source :=
  if s.regs.gradEn ∧ 2 ≤ s.regs.palN then .gradient s.palette h s.regs.gradO
  else .fixed (color s.regs.colorFg)

/-- What a DRAW into a buffer of height `h` paints with (43 R160, R165, R167). -/
def State.paint (s : State) (h : Nat) : Paint where
  eff := s.regs.effective
  outline := if s.regs.outlineEn then some (color s.regs.colorOutline) else none
  shadow := if s.regs.shadowEn then some (color s.regs.colorShadow) else none
  fg := s.fgSource h

/-- The finished buffer of a DRAW with the font in slot `f` (43 R170, steps 4 to 6). -/
def State.drawn (s : State) (f : Nat) : Raster :=
  let len := s.regs.textChars
  let w := s.regs.effective.width len
  let h := s.regs.effective.height
  compositeText (s.paint h) (fun k => s.glyphRow f (s.textChar k)) len (Raster.filled w h s.regs.fillColor)

/-- `emit Put` of a buffer at POS (43 R175). -/
def State.put (s : State) (r : Raster) : State :=
  s.emit (.put s.regs.posX s.regs.posY r.w r.h r.pixels)

/-- MEASURE's writes: it checks nothing (43 R172). -/
def measureResult (s : State) : CmdResult :=
  .ok (s.setOutSize (s.regs.effective.width s.regs.textChars) s.regs.effective.height)

/-- MEASURE: the buffer dimensions DRAW would use, without drawing (43 R172). -/
def execMeasure (s : State) : Host.Outcome State Fault Refusal := complete .measure s (measureResult s)

/-- The checks and the writes of DRAW, in the order of 43 R170 and 60 R205. -/
def drawResult (s : State) : CmdResult :=
  match s.resolveFont with
  | none => .raise .fontNotFound
  | some f =>
    let len := s.regs.textChars
    let w := s.regs.effective.width len
    let h := s.regs.effective.height
    if s.params.maxText < len then .raise .param
    else if s.regs.gradEn ∧ s.paletteTooLong then .raise .param
    else if w = 0 ∨ h = 0 then .noop (s.setOutSize w h)
    else if s.params.maxW < w ∨ s.params.maxH < h then .raise .tooLarge
    else
      let r := s.drawn f
      .ok (((s.setOutSize w h).setBuffer w h r.pixels).put r)

/-- DRAW: render the string in TEXT into a new pixel buffer and hand it to the surface at POS (43 R170). -/
def execDraw (s : State) : Host.Outcome State Fault Refusal := complete .draw s (drawResult s)

/-- PRESENT's no-op test and its event (43 R176). -/
def presentResult (s : State) : CmdResult :=
  if s.bufW = 0 ∨ s.bufH = 0 then .noop s else .ok (s.put s.raster)

/-- PRESENT: hand the current pixel buffer to the surface at POS (43 R176). -/
def execPresent (s : State) : Host.Outcome State Fault Refusal := complete .present s (presentResult s)

end Sys2Proof.Machine
end

