-- ==== Sys2Proof/Machine/Control.lean ====
section
/-! DEFINITION. The control and surface commands NOP and CLEAR (44). -/

namespace Sys2Proof.Machine

/-- NOP: nothing but the end of a command (44 R190). -/
def execNop (s : State) : Host.Outcome State Fault Refusal := complete .nop s (.ok s)

/-- CLEAR: emit one Clear with the rectangle of CLEAR_XY and CLEAR_WH, unchecked (44 R191). -/
def execClear (s : State) : Host.Outcome State Fault Refusal :=
  complete .clear s (.ok (s.emit (.clear s.regs.clearX s.regs.clearY s.regs.clearW s.regs.clearH)))

end Sys2Proof.Machine
end

