-- ==== Sys2Proof/Machine/FontStore.lean ====
section
/-! DEFINITION. The font store: the font image and FONT_LOAD (40). -/

namespace Sys2Proof.Machine

/-- `header_ok` of the first eight bytes of STAGE (40 R100). -/
def State.headerOk (s : State) : Bool :=
  s.stageByte 0 == s.params.magic0 && s.stageByte 1 == s.params.magic1 && s.stageByte 2 == s.params.magic2
    && s.stageByte 3 == 0 && s.stageByte 4 == 8 && s.stageByte 5 == 8
    && (s.stageByte 6).toNat + 256 * (s.stageByte 7).toNat == 256

/-- The glyph table of the font image in STAGE: bytes 8 to 2055 (40 R100). -/
def State.stageTable (s : State) : List Byte := (List.range Config.fontBytes).map fun i => s.stageByte (8 + i)

/-- The checks and the commit of FONT_LOAD, in the order of 40 R101 and 60 R205. -/
def fontLoadResult (slot : Nat) (s : State) : CmdResult :=
  let len := s.regs.fontLenBytes
  if s.params.fontSlots ≤ slot then .raise .illegalCommand
  else if 4096 < len then .raise .param
  else if len < 8 then .raise .invalidFormat
  else if !s.headerOk then .raise .invalidFormat
  else if len < 2056 then .raise .truncated
  else .ok (s.commitFont slot s.stageTable)

/-- FONT_LOAD: validate the font image in STAGE and commit its glyph table to a slot (40 R101). -/
def execFontLoad (slot : Nat) (s : State) : Host.Outcome State Fault Refusal :=
  complete (.fontLoad slot) s (fontLoadResult slot s)

end Sys2Proof.Machine
end

