-- ==== Sys2Proof/Machine/Dispatch.lean ====
section
/-! DEFINITION. The meaning of each command (30 R84), one arm per constructor. -/

namespace Sys2Proof.Machine

def exec (i : Instr) (s : State) : Host.Outcome State Fault Refusal :=
  match i with
  | .nop => Sys2Proof.Machine.execNop s
  | .fontLoad slot => Sys2Proof.Machine.execFontLoad slot s
  | .measure => Sys2Proof.Machine.execMeasure s
  | .draw => Sys2Proof.Machine.execDraw s
  | .sample scanline => Sys2Proof.Machine.execSample scanline s
  | .bufInit => Sys2Proof.Machine.execBufInit s
  | .blit char csel => Sys2Proof.Machine.execBlit char csel s
  | .present => Sys2Proof.Machine.execPresent s
  | .clear => Sys2Proof.Machine.execClear s

end Sys2Proof.Machine
end

