-- ==== Sys2Proof/Machine/Agents.lean ====
section
/-! DEFINITION. The turns of the two agents, host and engine (00 R5, 70 R221 to R226), the reset input (70 R220), and whose
turn it is (log 4). -/

namespace Sys2Proof.Machine

/-- A word that is no command is performed as an ILLEGAL_COMMAND error; LASTOP records its OP (30 R85). -/
def illegal (w : Word) (s : State) : State := finish (opField w) s (.raise .illegalCommand)

/-- Decode the word and perform its command (30 R83, 70 R222). -/
def perform (w : Word) (s : State) : Host.Outcome State Fault Refusal :=
  match decode w with
  | .ok i => exec i s
  | .error _ => .next (illegal w s)

/-- The engine's step: it performs the pending command, to completion; an idle engine does nothing (70 R222, 60 R214). -/
def engineTurn (s : State) : Host.Outcome State Fault Refusal :=
  match s.pending with
  | none => .next s
  | some w => perform w s

/-- The answer to the access just made, after which the free values are drawn anew (log 6). -/
def State.answer (s : State) (r : Reply) : State := { s with replies := s.replies ++ [r], draws := s.draws + 1 }

/-- One STATUS read of a `wait` (30 R89). It draws no free value and moves no counter, so that how many polls a `wait` makes
has no influence on anything that follows (70 R229; log 13). -/
def State.poll (s : State) : State := { s with replies := s.replies ++ [.polled s.statusWord] }

/-- The surface log a reset leaves: no event is taken back, and whether a command that was pending had appended its event is
open (70 R220, 93 U14; log 10). -/
def State.abandonedLog (s : State) : List SurfaceEvent :=
  if Config.freeBit s.draws then
    match engineTurn s with
    | .next t => t.surface
    | .fault _ => s.surface
    | .refused _ => s.surface
  else s.surface

/-- The reset input (70 R220): every register takes its reset value, PENDING is empty, the memories hold nothing the spec
gives, the parameters and the events already appended stay. -/
def State.resetNow (s : State) : State :=
  { State.resetWith s.params with
    surface := s.abandonedLog
    host := s.host
    replies := s.replies
    sched := s.sched
    draws := s.draws + 1 }

/-- The host's step: its next access, or nothing where it has none left. -/
def hostTurn (s : State) : Host.Outcome State Fault Refusal :=
  match s.host with
  | [] => .next s
  | .read w a :: rest => .next ({ s with host := rest }.answer (s.busRead w a.toNat))
  | .write w a v :: rest =>
    if s.busy then .refused .hostWriteWhileBusy
    else
      let p := { s with host := rest }.busWrite w a.toNat v
      .next (p.1.answer p.2)
  | .wait :: rest => .next (if s.busy then s.poll else { s.poll with host := rest })
  | .reset :: rest => .next { s with host := rest }.resetNow

/-- One step: the agent `sched` names takes its turn; where it names none, the engine if a command is pending, else the host
(70 R222, R223; log 4). -/
def takeTurn (s : State) : Host.Outcome State Fault Refusal :=
  match s.sched with
  | .engine :: rest => engineTurn { s with sched := rest }
  | .host :: rest => hostTurn { s with sched := rest }
  | [] => if s.busy then engineTurn s else hostTurn s

end Sys2Proof.Machine
end

