-- ==== Sys2Proof/Machine/Step.lean ====
section
/-! DEFINITION. One step of the machine, and how an instruction word comes to be the next one performed. -/

namespace Sys2Proof.Machine

/-- One step (70 R221, R222; log 4). -/
def step (s : State) : Host.Outcome State Fault Refusal := takeTurn s

/-- The block fetches no instructions (10 R20): the word is handed over as a host write to CMD hands it over (70 R221), and
the engine has the next turn (log 5). -/
def State.withFetchWord (s : State) (_nbits w : Nat) : State :=
  { s.handOver (BitVec.ofNat 32 w) with sched := [] }

end Sys2Proof.Machine
end

