-- ==== Sys2Proof/Machine/Assembler.lean ====
section
/-! DEFINITION. The host-program assembly (30 E6): command statements and pseudo-instructions, as the host accesses they
stand for. An assembly error is `none` (30 R88). -/

namespace Sys2Proof.Machine

/-- The aperture address of CMD (10 R22). -/
abbrev cmdAddr : Addr := 0x000004

/-- A command statement: `wr32 CMD, <word>` (30 R87, R88). -/
def asmCommand (i : Instr) : Option (List HostOp) :=
  (assemble i).map fun w => [.write .w32 cmdAddr w]

/-- `run CMD`: the command statement, then `wait` (30 R90). -/
def asmRun (i : Instr) : Option (List HostOp) := (asmCommand i).map fun ops => ops ++ [.wait]

/-- `rgba A, r, g, b, a` (30 R91). -/
def asmRgba (A : Addr) (c : Color) : List HostOp := [.write .w32 A (colorWord c)]

/-- `bytes A, v0, ..., vn` (30 R92). -/
def asmBytes : Addr → List Byte → List HostOp
  | _, [] => []
  | A, v :: vs => .write .w8 A (v.zeroExtend 32) :: asmBytes (A + 1) vs

/-- `zero A, n` (30 R92). -/
def asmZero (A : Addr) (n : Nat) : List HostOp := asmBytes A (List.replicate n 0)

/-- `expect A, V`: the read `rd32 A`; the check of its value is the host's (30 R93). -/
def asmExpect (A : Addr) : List HostOp := [.read .w32 A]

/-- The host's check of an `expect` (30 R93). -/
def Reply.meets (r : Reply) (V : Word) : Bool := decide (r = .data V)

end Sys2Proof.Machine
end

