-- ==== Sys2Proof/Safety.lean ====
section
/-! DEFINITION. What a good state is (the invariants the spec gives the block), what a safe run is, and what a run's
result is (70 R229), in the terms the statements use. -/

namespace Sys2Proof.Machine

/-- The canonical form of the byte memories, and every listed byte stands in PAL, STAGE, TEXT or GLYPH (20 R62). -/
def MemoryOk (s : State) : Prop :=
  s.mem.wf ∧ ∀ c ∈ s.mem, ∃ w, windowAt s.params c.1 = some w ∧ w ≠ .pix

/-- PIX holds W × H pixels, and BUF_CUR is within MAX_W and MAX_H (10 R49). -/
def BufferOk (s : State) : Prop :=
  s.pix.length = s.bufW * s.bufH ∧ s.bufW ≤ s.params.maxW ∧ s.bufH ≤ s.params.maxH

/-- The reserved bits of the read-write registers are 0 (10 R53). -/
def RegsOk (g : Regs) : Prop :=
  g.fontSel &&& Reg.writeMask .fontSel = g.fontSel ∧ g.fontLen &&& Reg.writeMask .fontLen = g.fontLen ∧
  g.textLen &&& Reg.writeMask .textLen = g.textLen ∧ g.scale &&& Reg.writeMask .scale = g.scale ∧
  g.effects &&& Reg.writeMask .effects = g.effects ∧ g.outline &&& Reg.writeMask .outline = g.outline ∧
  g.shadow &&& Reg.writeMask .shadow = g.shadow ∧ g.palCount &&& Reg.writeMask .palCount = g.palCount ∧
  g.sampleH &&& Reg.writeMask .sampleH = g.sampleH

/-- A FONT_VALID bit is set only for a slot that exists and whose 2048 glyph bytes are held (10 R24, R48); the default font
is a valid slot (40 R105), and there is one as soon as any slot is valid (40 R103). -/
def FontsOk (s : State) : Prop :=
  (∀ slot, flagBit s.fontValid slot = true →
    slot < s.params.fontSlots ∧ ∀ i < Config.fontBytes, (s.mem.read (glyphAddr slot + i)).isSome = true) ∧
  (∀ d, s.fontDefault = some d → s.slotValid d.toNat = true) ∧
  (s.fontDefault = none → s.fontValid = 0)

/-- DONE is 0 while BUSY is 1 (10 R22, R23); NOOP = 1 only after a DRAW or PRESENT without an error (10 R23). -/
def StatusOk (s : State) : Prop :=
  (s.busy = true → s.status.done = false) ∧
  (s.status.noop = true → s.status.err = none ∧ (s.status.lastOp = 0x03 ∨ s.status.lastOp = 0x07))

/-- The ranges of a surface event (10 R52). -/
def EventOk (p : Params) : SurfaceEvent → Prop
  | .put x y w h pixels =>
    (-32768 ≤ x ∧ x ≤ 32767) ∧ (-32768 ≤ y ∧ y ≤ 32767) ∧ (1 ≤ w ∧ w ≤ p.maxW) ∧ (1 ≤ h ∧ h ≤ p.maxH) ∧
      pixels.length = w * h
  | .clear x y w h =>
    (-32768 ≤ x ∧ x ≤ 32767) ∧ (-32768 ≤ y ∧ y ≤ 32767) ∧ w ≤ 65535 ∧ h ≤ 65535

/-- The invariant of the block: true after reset, kept by every step of either agent. -/
structure Inv (s : State) : Prop where
  params : s.params.Legal
  memory : MemoryOk s
  buffer : BufferOk s
  regs : RegsOk s.regs
  fonts : FontsOk s
  status : StatusOk s
  surface : ∀ e ∈ s.surface, EventOk s.params e

/-- A run of `n` steps. -/
abbrev runSteps (n : Nat) (s : State) : Host.Outcome State Fault Refusal := Sys2Proof.core.run n s

/-- A safe run: no step of it is refused, however long it goes on (70 R225). -/
def Safe (s : State) : Prop := ∀ n, ∃ t, runSteps n s = .next t

/-- The host keeps the rule of 70 R225: after a write to CMD (from which, or from `busy`, a command may be pending) it
writes nothing before it has waited. -/
def waitsBeforeWriting : Bool → List HostOp → Bool
  | _, [] => true
  | busy, .read _ _ :: rest => waitsBeforeWriting busy rest
  | busy, .write _ a _ :: rest => !busy && waitsBeforeWriting (decide (a = 0x000004)) rest
  | _, .wait :: rest => waitsBeforeWriting false rest
  | _, .reset :: rest => waitsBeforeWriting false rest

/-- A run has ended: the host program is done and PENDING is empty (70 R229). -/
def State.finished (s : State) : Bool := s.host.isEmpty && s.pending.isNone

/-- The value an answer adds to a run's result: a read's data, and of the polls of a `wait` the last only, which reads
BUSY = 0. How many polls came before it is no part of the result (70 R229); a bus error and a write have no value (20 R64). -/
def Reply.value : Reply → Option Word
  | .data v => some v
  | .ack => none
  | .busError => none
  | .polled v => if flagBit v 0 then none else some v

/-- "The values of the host's reads" (70 R229), oldest first. -/
def State.readValues (s : State) : List Word := s.replies.filterMap Reply.value

/-- Two ended runs have the same observable result (70 R229): every host-readable register and memory byte, unspecified
bytes being left unspecified (`none`), the values of the host's reads, and the surface log. -/
def SameResult (s t : State) : Prop :=
  (∀ r : Reg, s.readReg r = t.readReg r) ∧ (∀ a, s.byteAt a = t.byteAt a) ∧ s.readValues = t.readValues ∧
    s.surface = t.surface

end Sys2Proof.Machine
end

