-- ==== Sys2Proof/Certificates/Slice0/Obligations.lean ====
section
/-! DEFINITION. The statements about the block, from the numbered rules of spec/. The vocabulary they share comes first; it
restates the spec's formulas, so that a statement does not repeat the machine's own text. -/

namespace Sys2Proof.Claims

open Sys2Proof.Machine

/-! ### The end of a command, and what it leaves alone -/

/-- The end-of-command writes of 60 R201. -/
def Ended (t : State) (op : Byte) (err : Option CmdError) (noop : Bool) : Prop :=
  t.pending = none ∧ t.status.done = true ∧ t.status.noop = noop ∧ t.status.err = err ∧ t.status.lastOp = op

/-- Nothing but STATUS and PENDING changed (60 R202); `draws` is the model's own counter of free values. -/
def OnlyStatus (s t : State) : Prop :=
  t = { s with pending := t.pending, status := t.status, draws := t.draws }

/-- STATUS, PENDING and the surface log may have changed, and nothing else. -/
def OnlySurface (s t : State) : Prop :=
  t = { s with pending := t.pending, status := t.status, draws := t.draws, surface := t.surface }

/-- STATUS, PENDING, OUT_W and OUT_H may have changed, and nothing else. -/
def OnlyOutSize (s t : State) : Prop :=
  t = { s with pending := t.pending, status := t.status, draws := t.draws, outW := t.outW, outH := t.outH }

/-- STATUS, PENDING and SAMPLE_RESULT may have changed, and nothing else. -/
def OnlySample (s t : State) : Prop :=
  t = { s with pending := t.pending, status := t.status, draws := t.draws, sampleResult := t.sampleResult }

/-- STATUS, PENDING, FONT_VALID, FONT_DEFAULT and the byte memories may have changed, and nothing else. -/
def OnlyFonts (s t : State) : Prop :=
  t = { s with
    pending := t.pending, status := t.status, draws := t.draws
    fontValid := t.fontValid, fontDefault := t.fontDefault, mem := t.mem }

/-- STATUS, PENDING, BUF_CUR and PIX may have changed, and nothing else. -/
def OnlyBuffer (s t : State) : Prop :=
  t = { s with pending := t.pending, status := t.status, draws := t.draws, bufCur := t.bufCur, pix := t.pix }

/-- STATUS, PENDING and the pixels of the current buffer may have changed, and nothing else. -/
def OnlyPixels (s t : State) : Prop :=
  t = { s with pending := t.pending, status := t.status, draws := t.draws, pix := t.pix }

/-- What a DRAW that draws may change: STATUS, PENDING, OUT_W, OUT_H, BUF_CUR, PIX and the surface log. -/
def OnlyDrawn (s t : State) : Prop :=
  t = { s with
    pending := t.pending, status := t.status, draws := t.draws, outW := t.outW, outH := t.outH
    bufCur := t.bufCur, pix := t.pix, surface := t.surface }

/-- The command `i` with opcode `op` raises the error `e` in state `s` and changes nothing but STATUS (60 R202). -/
def Raises (i : Instr) (s : State) (op : Byte) (e : CmdError) : Prop :=
  ∃ t, exec i s = .next t ∧ Ended t op (some e) false ∧ OnlyStatus s t

/-! ### Illegal words -/

/-- The words `decode` of 30 R83 raises ILLEGAL_COMMAND on. -/
def IllegalWord (w : Word) : Prop :=
  8 < field w 24 8 ∨
  (field w 24 8 ∈ [0x00, 0x02, 0x03, 0x05, 0x07, 0x08] ∧ field w 0 24 ≠ 0) ∨
  (field w 24 8 = 0x01 ∧ field w 8 16 ≠ 0) ∨
  (field w 24 8 = 0x04 ∧ field w 16 8 ≠ 0) ∨
  (field w 24 8 = 0x06 ∧ field w 10 14 ≠ 0)

/-! ### Sizes of a text (43 R160 to R162), written out -/

/-- `t` of 43 R160. -/
def effT (g : Regs) : Nat := if flagBit g.effects 1 then field g.outline 0 8 else 0

/-- `dx` of 43 R160. -/
def effDX (g : Regs) : Int := if flagBit g.effects 2 then sext 8 (field g.shadow 0 8) else 0

/-- `dy` of 43 R160. -/
def effDY (g : Regs) : Int := if flagBit g.effects 2 then sext 8 (field g.shadow 8 8) else 0

/-- `sx` of 43 R160. -/
def effSX (g : Regs) : Nat := field g.scale 0 8

/-- `sy` of 43 R160. -/
def effSY (g : Regs) : Nat := field g.scale 8 8

/-- `W` of 43 R162, for the text length TEXT_LEN.LEN. -/
def sizeW (g : Regs) : Nat :=
  field g.textLen 0 16 * 8 * effSX g + max ((effDX g).natAbs * effSX g) (effT g * effSX g * 2)

/-- `H` of 43 R162. -/
def sizeH (g : Regs) : Nat := 8 * effSY g + max ((effDY g).natAbs * effSY g) (effT g * effSY g * 2)

/-- The initial colour of a new buffer (43 R164, 42 R148). -/
def fillOf (g : Regs) : Color := if flagBit g.effects 0 then color g.colorBg else ⟨0, 0, 0, 0⟩

/-! ### Pixels, without the loops of 42 R142 and 43 R167 -/

/-- The glyph placed with its top-left cell at (ox, oy), each cell `sx × sy` pixels, lights the pixel (x, y): the pixel
falls in the 8 × 8 cells, and the bit of its cell is set, bit 7 being the leftmost column (42 R142). -/
def coversAt (glyph : Nat → Byte) (ox oy : Int) (sx sy : Nat) (x y : Nat) : Bool :=
  decide (ox ≤ x ∧ (x : Int) < ox + 8 * sx ∧ oy ≤ y ∧ (y : Int) < oy + 8 * sy) &&
    (glyph (((y : Int) - oy).toNat / sy)).getLsbD (7 - ((x : Int) - ox).toNat / sx)

/-- The outline of a character with base position (bx, by') reaches the pixel: some offset pair of [-t, t]² other than
(0, 0) does (43 R167, R168). -/
def outlineCovers (glyph : Nat → Byte) (bx by' : Int) (sx sy t : Nat) (x y : Nat) : Bool :=
  (List.range (2 * t + 1)).any fun i => (List.range (2 * t + 1)).any fun j =>
    (decide (i ≠ t) || decide (j ≠ t)) &&
      coversAt glyph (bx + ((i : Int) - t) * sx) (by' + ((j : Int) - t) * sy) sx sy x y

/-- The pixel (x, y) after character `k` of a text is composited over a pixel of colour `below`: the topmost of the
foreground, shadow and outline layers that reaches it, else `below` (43 R163, R167, R169). -/
def charPixel (g : Regs) (fg : Source) (glyph : Nat → Byte) (k x y : Nat) (below : Color) : Color :=
  let bx : Int := k * 8 * effSX g + effT g * effSX g
  let by' : Int := effT g * effSY g
  if coversAt glyph bx by' (effSX g) (effSY g) x y then fg.colourAt y
  else if flagBit g.effects 2 &&
      coversAt glyph (bx + effDX g * effSX g) (by' + effDY g * effSY g) (effSX g) (effSY g) x y then
    color g.colorShadow
  else if flagBit g.effects 1 && outlineCovers glyph bx by' (effSX g) (effSY g) (effT g) x y then
    color g.colorOutline
  else below

/-- The pixel (x, y) after the first `k` characters, in text order (43 R167). -/
def textPixel (g : Regs) (fg : Source) (glyph : Nat → Nat → Byte) (x y : Nat) : Nat → Color
  | 0 => fillOf g
  | k + 1 => charPixel g fg (glyph k) k x y (textPixel g fg glyph x y k)

/-- The foreground source of a DRAW into a buffer of height `h` (43 R165). -/
def foregroundOf (s : State) (h : Nat) : Source :=
  if flagBit s.regs.effects 3 = true ∧ 2 ≤ field s.regs.palCount 0 8 then
    .gradient ((List.range (field s.regs.palCount 0 8)).map fun e => color (s.palWord e)) h
      (sext 32 (field s.regs.gradOffset 0 32))
  else .fixed (color s.regs.colorFg)

/-- DRAW reaches step 4 with the font in slot `f` (43 R170): the font resolves, the text and, if used, the palette fit
their memories, and the buffer is not empty and within MAX_W and MAX_H. -/
def Drawable (s : State) (f : Nat) : Prop :=
  s.resolveFont = some f ∧ field s.regs.textLen 0 16 ≤ s.params.maxText ∧
  (flagBit s.regs.effects 3 = true → field s.regs.palCount 0 8 ≤ s.params.maxPalette) ∧
  (0 < sizeW s.regs ∧ sizeW s.regs ≤ s.params.maxW) ∧ (0 < sizeH s.regs ∧ sizeH s.regs ≤ s.params.maxH)

/-- The registers `g` and the memory `m` differ from those of `s` at most in the parameters of the effects that EFFECTS
disables (10 R31); PAL is the only memory below 0x001000 (20 R62). -/
def DifferWhereDisabled (s : State) (g : Regs) (m : Memory) : Prop :=
  g = { s.regs with
    colorBg := g.colorBg, outline := g.outline, colorOutline := g.colorOutline, shadow := g.shadow
    colorShadow := g.colorShadow, palCount := g.palCount, gradOffset := g.gradOffset } ∧
  (flagBit s.regs.effects 0 = true → g.colorBg = s.regs.colorBg) ∧
  (flagBit s.regs.effects 1 = true → g.outline = s.regs.outline ∧ g.colorOutline = s.regs.colorOutline) ∧
  (flagBit s.regs.effects 2 = true → g.shadow = s.regs.shadow ∧ g.colorShadow = s.regs.colorShadow) ∧
  (flagBit s.regs.effects 3 = true → g.palCount = s.regs.palCount ∧ g.gradOffset = s.regs.gradOffset) ∧
  ∀ a, flagBit s.regs.effects 3 = true ∨ 0x1000 ≤ a → m.read a = s.mem.read a

/-! ### The host's side -/

/-- The address lies in a memory window of 20 R62, within its bound. -/
def Mapped (p : Params) (a : Nat) : Prop :=
  (∃ e < p.maxPalette, 0x100 + 4 * e ≤ a ∧ a < 0x100 + 4 * e + 4) ∨
  (∃ i < 4096, a = 0x1000 + i) ∨
  (∃ k < p.maxText, a = 0x2000 + k) ∨
  (∃ slot < p.fontSlots, ∃ i < 2048, a = 0x10000 + 0x800 * slot + i) ∨
  (∃ j < 4 * p.maxW * p.maxH, a = 0x800000 + j)

/-- An access that is a bus error by its width, alignment or address (20 R63, R67). -/
def BadAccess (p : Params) (w : Width) (a : Nat) : Prop :=
  (a < 0x70 ∧ (w ≠ .w32 ∨ a % 4 ≠ 0)) ∨
  (0x70 ≤ a ∧ (a % w.bytes ≠ 0 ∨ ∃ k < w.bytes, ¬ Mapped p (a + k)))

/-- The read-write registers of 20 R62 with their defined fields (10 R26 to R44). -/
def rwRegisters : List (Nat × Word) :=
  [(0x14, 0x000001FF), (0x18, 0x0000FFFF), (0x1C, 0x0000FFFF), (0x20, 0xFFFFFFFF), (0x24, 0x0000FFFF),
   (0x28, 0x0000000F), (0x2C, 0x000000FF), (0x30, 0x0000FFFF), (0x34, 0xFFFFFFFF), (0x38, 0xFFFFFFFF),
   (0x3C, 0xFFFFFFFF), (0x40, 0xFFFFFFFF), (0x44, 0x000000FF), (0x48, 0xFFFFFFFF), (0x4C, 0x0000FFFF),
   (0x54, 0xFFFFFFFF), (0x58, 0xFFFFFFFF), (0x68, 0xFFFFFFFF), (0x6C, 0xFFFFFFFF)]

/-- The read-only registers (20 R68): ID, STATUS, FONT_VALID, FONT_DEFAULT, SAMPLE_RESULT, OUT_W, OUT_H, BUF_CUR. -/
def readOnlyRegisters : List Nat := [0x00, 0x08, 0x0C, 0x10, 0x50, 0x5C, 0x60, 0x64]

/-- What a read of each register answers while BUSY = 0 (10 R21 to R44), in the order of the map; FONT_VALID and FONT_DEFAULT
are given field by field where this is used. -/
def registerValues (s : State) : List (Nat × Word) :=
  [(0x00, 0x01425247), (0x04, 0), (0x08, s.statusWord), (0x14, s.regs.fontSel &&& 0x000001FF),
   (0x18, s.regs.fontLen &&& 0x0000FFFF), (0x1C, s.regs.textLen &&& 0x0000FFFF), (0x20, s.regs.pos),
   (0x24, s.regs.scale &&& 0x0000FFFF), (0x28, s.regs.effects &&& 0x0000000F), (0x2C, s.regs.outline &&& 0x000000FF),
   (0x30, s.regs.shadow &&& 0x0000FFFF), (0x34, s.regs.colorFg), (0x38, s.regs.colorBg), (0x3C, s.regs.colorOutline),
   (0x40, s.regs.colorShadow), (0x44, s.regs.palCount &&& 0x000000FF), (0x48, s.regs.gradOffset),
   (0x4C, s.regs.sampleH &&& 0x0000FFFF), (0x50, s.sampleResult), (0x54, s.regs.blitOrigin), (0x58, s.regs.bufReq),
   (0x5C, s.outW), (0x60, s.outH), (0x64, s.bufCur), (0x68, s.regs.clearXY), (0x6C, s.regs.clearWH)]

/-- The reset table of 70 R220, with CMD's read value (10 R22). -/
def resetTable : List (Nat × Word) :=
  [(0x00, 0x01425247), (0x04, 0), (0x08, 0), (0x0C, 0), (0x10, 0), (0x14, 0x00000100), (0x18, 0), (0x1C, 0), (0x20, 0),
   (0x24, 0x00000101), (0x28, 0), (0x2C, 0), (0x30, 0), (0x34, 0xFFFFFFFF), (0x38, 0xFFFFFFFF), (0x3C, 0xFFFFFFFF),
   (0x40, 0xFFFFFFFF), (0x44, 0), (0x48, 0), (0x4C, 0), (0x50, 0), (0x54, 0), (0x58, 0), (0x5C, 0), (0x60, 0), (0x64, 0),
   (0x68, 0), (0x6C, 0)]

/-- It is the host's turn, and `op` is its next access. -/
def HostTurnAt (s : State) (op : HostOp) (rest : List HostOp) (q : List Agent) : Prop :=
  s.host = op :: rest ∧ (s.sched = .host :: q ∨ (s.sched = [] ∧ q = [] ∧ s.busy = false))

/-- The step to come is the host's, and it is the reset input. -/
def HostResets (s : State) : Prop := ∃ rest q, HostTurnAt s .reset rest q

/-- The state after an access that touched nothing of the block: one reply more, one access fewer. -/
def Replied (s : State) (rest : List HostOp) (q : List Agent) (r : Reply) : State :=
  { s with host := rest, sched := q, replies := s.replies ++ [r], draws := s.draws + 1 }

end Sys2Proof.Claims

open Sys2Proof Sys2Proof.Machine Sys2Proof.Claims

/-! ### Command words -/

/-- 30 R81, R83, R88: every command, with every operand its fields admit, is decoded from its own word. -/
def Obligations.DecodeOfEncode : Prop := ∀ i : Instr, i.WellFormed → decode (encode i) = .ok i

/-- 30 R83, R88: a word has one reading; what it decodes to assembles to that word. -/
def Obligations.DecodedWordReassembles : Prop :=
  ∀ (w : Word) (i : Instr), decode w = .ok i → i.WellFormed ∧ assemble i = some w

/-- 30 R84: the opcode map, and a row of it selects a word (`w & mask = match`) exactly when the word decodes to that row's
command; so no two rows select one word. -/
def Obligations.DecodeFollowsOpcodeMap : Prop :=
  (opcodeTable =
    [⟨"nop", 0x00000000, 0xFFFFFFFF⟩, ⟨"font.load", 0x01000000, 0xFFFFFF00⟩, ⟨"measure", 0x02000000, 0xFFFFFFFF⟩,
     ⟨"draw", 0x03000000, 0xFFFFFFFF⟩, ⟨"sample", 0x04000000, 0xFFFF0000⟩, ⟨"buf.init", 0x05000000, 0xFFFFFFFF⟩,
     ⟨"blit", 0x06000000, 0xFFFFFC00⟩, ⟨"present", 0x07000000, 0xFFFFFFFF⟩, ⟨"clear", 0x08000000, 0xFFFFFFFF⟩]) ∧
  ∀ (w : Word) (row : OpcodeRow), row ∈ opcodeTable → (row.Selects w ↔ ∃ i, decode w = .ok i ∧ i.row = row)

/-- 30 R81, R88: words written out from the formats, one of each command. -/
def Obligations.SampleWordsDecode : Prop :=
  decode 0b00000000000000000000000000000000 = .ok .nop ∧
  decode 0b00000001000000000000000000000101 = .ok (.fontLoad 5) ∧
  decode 0b00000010000000000000000000000000 = .ok .measure ∧
  decode 0b00000011000000000000000000000000 = .ok .draw ∧
  decode 0b00000100000000001000000100000011 = .ok (.sample 0x8103) ∧
  decode 0b00000101000000000000000000000000 = .ok .bufInit ∧
  decode 0b00000110000000000000001001000001 = .ok (.blit 65 .shadow) ∧
  decode 0b00000111000000000000000000000000 = .ok .present ∧
  decode 0b00001000000000000000000000000000 = .ok .clear

/-- 30 R83, R85: the words of R83's error lines are exactly those that are no command; the engine performs such a word as an
ILLEGAL_COMMAND error that changes nothing but STATUS, and LASTOP records its OP. -/
def Obligations.IllegalWordsOnlyReport : Prop :=
  (∀ w : Word, IllegalWord w ↔ ∃ e, decode w = .error e) ∧
  ∀ (s : State) (w : Word), s.pending = some w → IllegalWord w →
    ∃ t, engineTurn s = .next t ∧ Ended t (BitVec.ofNat 8 (field w 24 8)) (some .illegalCommand) false ∧ OnlyStatus s t

/-! ### The engine's step -/

/-- 70 R222 (with log 4 for whose turn it is): the engine's step on a pending word that decodes to `i` is `exec i`, on the
state as it stands, less the entry of `sched` that gave the engine its turn. -/
def Obligations.StepPerformsDecodedCommand : Prop :=
  ∀ (s : State) (w : Word) (i : Instr), s.pending = some w → decode w = .ok i →
    (s.sched = [] → step s = exec i s) ∧
    (∀ q, s.sched = .engine :: q → step s = exec i { s with sched := q })

/-- 60 R201, R214, 70 R222: whatever word is pending, the engine's step ends in a next state: idle, DONE, LASTOP the word's
OP; and NOOP = 1 only for a DRAW or PRESENT without an error. An idle engine does nothing. -/
def Obligations.EveryCommandEnds : Prop :=
  (∀ (s : State) (w : Word), s.pending = some w →
    ∃ t, engineTurn s = .next t ∧ t.pending = none ∧ t.busy = false ∧ t.status.done = true ∧
      t.status.lastOp = BitVec.ofNat 8 (field w 24 8) ∧
      (t.status.noop = true → t.status.err = none ∧ (field w 24 8 = 0x03 ∨ field w 24 8 = 0x07))) ∧
  ∀ s : State, s.pending = none → engineTurn s = .next s

/-- 60 R202, 00 R11: a command that raises an error changes nothing but STATUS. -/
def Obligations.ErrorsChangeOnlyStatus : Prop :=
  ∀ (s t : State) (w : Word), s.pending = some w → engineTurn s = .next t → t.status.err ≠ none → OnlyStatus s t

/-- 00 R5: the engine writes no read-write register and no byte but those of GLYPH, and takes no access of the host; the
host's accesses write no result register, no font state, no pixel and no surface event, and no GLYPH byte. -/
def Obligations.AgentsWriteTheirOwnState : Prop :=
  (∀ s t : State, engineTurn s = .next t →
    t.regs = s.regs ∧ t.params = s.params ∧ t.host = s.host ∧ t.replies = s.replies ∧ t.sched = s.sched ∧
    ∀ a, a < 0x10000 → t.mem.read a = s.mem.read a) ∧
  (∀ s t : State, s.params.Legal → (∀ rest, s.host ≠ .reset :: rest) → hostTurn s = .next t →
    t.params = s.params ∧ t.fontValid = s.fontValid ∧ t.fontDefault = s.fontDefault ∧ t.sampleResult = s.sampleResult ∧
    t.outW = s.outW ∧ t.outH = s.outH ∧ t.bufCur = s.bufCur ∧ t.pix = s.pix ∧ t.surface = s.surface ∧
    ∀ a, 0x10000 ≤ a → t.mem.read a = s.mem.read a)

/-! ### NOP and CLEAR -/

/-- 44 R190: the all-zero word is NOP, which ends with ERR = 0 and NOOP = 0, and does nothing else. -/
def Obligations.NopOnlyEnds : Prop :=
  decode 0x00000000 = .ok .nop ∧
  ∀ s : State, ∃ t, exec .nop s = .next t ∧ Ended t 0x00 none false ∧ OnlyStatus s t

/-- 44 R191: CLEAR (word 0x08000000) appends one Clear with the rectangle of CLEAR_XY and CLEAR_WH, unchecked, and does nothing else. -/
def Obligations.ClearAppendsItsRectangle : Prop :=
  decode 0x08000000 = .ok .clear ∧
  ∀ s : State, ∃ t, exec .clear s = .next t ∧ Ended t 0x08 none false ∧ OnlySurface s t ∧
    t.surface = s.surface ++
      [.clear (sext 16 (field s.regs.clearXY 0 16)) (sext 16 (field s.regs.clearXY 16 16))
        (field s.regs.clearWH 0 16) (field s.regs.clearWH 16 16)]

/-! ### The font store -/

/-- 40 R101, R102, R103: FONT_LOAD of a good image into a slot that exists commits its 2048 glyph bytes, sets the slot's
FONT_VALID bit and no other, makes the slot the default if there is none, and changes nothing else. -/
def Obligations.FontLoadCommits : Prop :=
  ∀ (s : State) (slot : Nat), s.params.Legal → slot < s.params.fontSlots →
    2056 ≤ field s.regs.fontLen 0 16 → field s.regs.fontLen 0 16 ≤ 4096 →
    (s.stageByte 0 = s.params.magic0 ∧ s.stageByte 1 = s.params.magic1 ∧ s.stageByte 2 = s.params.magic2 ∧
      s.stageByte 3 = 0 ∧ s.stageByte 4 = 8 ∧ s.stageByte 5 = 8 ∧
      (s.stageByte 6).toNat + 256 * (s.stageByte 7).toNat = 256) →
    ∃ t, exec (.fontLoad slot) s = .next t ∧ Ended t 0x01 none false ∧ OnlyFonts s t ∧
      (∀ i < 2048, t.mem.read (0x10000 + 0x800 * slot + i) = some (s.stageByte (8 + i))) ∧
      (∀ a, ¬ (0x10000 + 0x800 * slot ≤ a ∧ a < 0x10000 + 0x800 * slot + 2048) → t.mem.read a = s.mem.read a) ∧
      (∀ k, flagBit t.fontValid k = (flagBit s.fontValid k || decide (k = slot))) ∧
      t.fontDefault = (if s.fontDefault = none then some (BitVec.ofNat 8 slot) else s.fontDefault)

/-- 40 R101, 60 R205: the errors of FONT_LOAD, each with the checks before it passed. -/
def Obligations.FontLoadErrorsInOrder : Prop :=
  ∀ (s : State) (slot : Nat),
    let len := field s.regs.fontLen 0 16
    let headerOk : Prop :=
      s.stageByte 0 = s.params.magic0 ∧ s.stageByte 1 = s.params.magic1 ∧ s.stageByte 2 = s.params.magic2 ∧
      s.stageByte 3 = 0 ∧ s.stageByte 4 = 8 ∧ s.stageByte 5 = 8 ∧
      (s.stageByte 6).toNat + 256 * (s.stageByte 7).toNat = 256
    (s.params.fontSlots ≤ slot → Raises (.fontLoad slot) s 0x01 .illegalCommand) ∧
    (slot < s.params.fontSlots → 4096 < len → Raises (.fontLoad slot) s 0x01 .param) ∧
    (slot < s.params.fontSlots → len < 8 → Raises (.fontLoad slot) s 0x01 .invalidFormat) ∧
    (slot < s.params.fontSlots → 8 ≤ len → len ≤ 4096 → ¬ headerOk → Raises (.fontLoad slot) s 0x01 .invalidFormat) ∧
    (slot < s.params.fontSlots → 8 ≤ len → len < 2056 → headerOk → Raises (.fontLoad slot) s 0x01 .truncated)

/-- 40 R104: the slot a DRAW or BLIT reads, and FONT_NOT_FOUND where neither the named slot nor a default font is there. -/
def Obligations.FontResolution : Prop :=
  ∀ s : State,
    let slot := field s.regs.fontSel 0 8
    let named : Prop := flagBit s.regs.fontSel 8 = false ∧ slot < s.params.fontSlots ∧ flagBit s.fontValid slot = true
    (named → s.resolveFont = some slot) ∧
    (∀ d, ¬ named → s.fontDefault = some d → s.resolveFont = some d.toNat) ∧
    (¬ named → s.fontDefault = none → s.resolveFont = none ∧ Raises .draw s 0x03 .fontNotFound ∧
      ∀ (char : Nat) (csel : Csel), Raises (.blit char csel) s 0x06 .fontNotFound)

/-- 40 R105: in a state of the invariant, the slot `resolve_font` returns is valid and all its glyph bytes are held. -/
def Obligations.ResolvedFontIsHeld : Prop :=
  ∀ (s : State) (f : Nat), Inv s → s.resolveFont = some f →
    f < s.params.fontSlots ∧ flagBit s.fontValid f = true ∧
    ∀ c < 256, ∀ r < 8, ∃ b, s.mem.read (0x10000 + 0x800 * f + (8 * c + r)) = some b ∧ s.glyphRow f c r = b

/-- 40 R103: a FONT_LOAD that succeeds while there is no default font sets it to its slot; only such a FONT_LOAD does; and,
once set, it is changed by no step but a reset. -/
def Obligations.DefaultFontIsSetOnce : Prop :=
  (∀ (s t : State) (w : Word) (slot : Nat), s.pending = some w → decode w = .ok (.fontLoad slot) →
    engineTurn s = .next t → t.status.err = none → s.fontDefault = none →
    t.fontDefault = some (BitVec.ofNat 8 slot)) ∧
  ∀ s t : State, step s = .next t → ¬ HostResets s →
    (∀ d, s.fontDefault = some d → t.fontDefault = some d) ∧
    (s.fontDefault = none → t.fontDefault ≠ none →
      ∃ w slot, s.pending = some w ∧ decode w = .ok (.fontLoad slot) ∧ t.status.err = none ∧
        t.fontDefault = some (BitVec.ofNat 8 slot))

/-- 10 R24: a FONT_VALID bit, once set, is cleared by no step but a reset, and only a FONT_LOAD that succeeds sets one. -/
def Obligations.ValidBitsStay : Prop :=
  ∀ s t : State, step s = .next t → ¬ HostResets s →
    ∀ k, (flagBit s.fontValid k = true → flagBit t.fontValid k = true) ∧
      (s.params.Legal → flagBit s.fontValid k = false → flagBit t.fontValid k = true →
        ∃ w, s.pending = some w ∧ decode w = .ok (.fontLoad k) ∧ t.status.err = none)

/-- 40 R106: a GLYPH byte changes only by a step of the engine (`q` is what that step leaves of `sched`), and only by a
FONT_LOAD that succeeds, into its own slot; the reset input, which leaves GLYPH unspecified (70 R220), is left out. -/
def Obligations.OnlyFontLoadWritesGlyphs : Prop :=
  ∀ (s t : State) (a : Nat), s.params.Legal → step s = .next t → ¬ HostResets s →
    0x10000 ≤ a → t.mem.read a ≠ s.mem.read a →
    ∃ w slot q, s.pending = some w ∧ decode w = .ok (.fontLoad slot) ∧ slot < s.params.fontSlots ∧
      engineTurn { s with sched := q } = .next t ∧ t.status.err = none ∧ 0x10000 + 0x800 * slot ≤ a ∧ a < 0x10000 + 0x800 * slot + 2048

/-! ### The gradient sampler -/

/-- 41 R125: the integer form gives the identical result to the exact rational form of R122, for every scanline, height,
palette and offset O / 65536. -/
def Obligations.IntegerFormIsExact : Prop :=
  ∀ (s H : Nat) (pal : List Color) (O : Int), sample s H pal O = sampleExact s H pal ((O : ℚ) / 65536)

/-- 41 R121, R128: the degenerate palettes. -/
def Obligations.DegeneratePalettes : Prop :=
  ∀ (s H : Nat) (O : Int) (p : Color),
    sample s H [] O = ⟨255, 255, 255, 255⟩ ∧ sample s H [p] O = p

/-- 41 R127: the sampler is cyclic in its offset, in exact rationals and in units of 1/65536. -/
def Obligations.SamplerIsCyclic : Prop :=
  ∀ (s H : Nat) (pal : List Color), pal ≠ [] →
    (∀ off : ℚ, sampleExact s H pal off = sampleExact s H pal (off + pal.length)) ∧
    (∀ O : Int, sample s H pal O = sample s H pal (O + pal.length * 65536))

/-- 41 R123: rounding is half up, and the rounded value of each channel lies between its two entries inclusive, so that it
is the channel, without clamping or wrapping. -/
def Obligations.RoundingNeedsNoClamp : Prop :=
  (roundHalfUp (255 / 2) = 128 ∧ roundHalfUp (1 / 2) = 1) ∧
  ∀ (frac : ℚ) (p q : Byte), 0 ≤ frac → frac < 1 →
    let v := roundHalfUp ((p.toNat : ℚ) + ((q.toNat : ℚ) - p.toNat) * frac)
    (min p.toNat q.toNat : Int) ≤ v ∧ v ≤ (max p.toNat q.toNat : Int) ∧ ((laneExact frac p q).toNat : Int) = v

/-- 41 R129: the endpoints, with offset 0 and H ≥ 2. -/
def Obligations.SamplerEndpoints : Prop :=
  ∀ (H : Nat) (pal : List Color) (p q : Color), 2 ≤ H → pal.head? = some p → pal.getLast? = some q →
    sample 0 H pal 0 = p ∧ sample (H - 1) H pal 0 = q

/-- 41 R126: SAMPLE writes the colour word of `sample` (R122, in exact rationals) into SAMPLE_RESULT, and nothing else. -/
def Obligations.SampleWritesItsColour : Prop :=
  ∀ (s : State) (scanline : Nat), field s.regs.palCount 0 8 ≤ s.params.maxPalette →
    ∃ t, exec (.sample scanline) s = .next t ∧ Ended t 0x04 none false ∧ OnlySample s t ∧
      t.sampleResult =
        colorWord (sampleExact scanline (field s.regs.sampleH 0 16)
          ((List.range (field s.regs.palCount 0 8)).map fun e => color (s.palWord e))
          ((sext 32 (field s.regs.gradOffset 0 32) : ℚ) / 65536))

/-- 41 R124: a palette longer than MAX_PALETTE is Error(PARAM) for SAMPLE always, for BLIT with CSEL = GRAD, and for DRAW with
GRAD_EN = 1, before any write (where the checks that come first pass). -/
def Obligations.LongPaletteIsParam : Prop :=
  ∀ (s : State) (scanline char f : Nat), s.params.maxPalette < field s.regs.palCount 0 8 →
    Raises (.sample scanline) s 0x04 .param ∧
    (s.resolveFont = some f → Raises (.blit char .grad) s 0x06 .param) ∧
    (s.resolveFont = some f → flagBit s.regs.effects 3 = true → Raises .draw s 0x03 .param)

/-! ### The glyph rasterizer -/

/-- 42 R142, R143, R144, R146: after a blit, each pixel the placed glyph lights has the source's colour at its row, every
other pixel is as it was, and the buffer keeps its size; pixels outside are dropped. -/
def Obligations.BlitPixels : Prop :=
  ∀ (glyph : Nat → Byte) (ox oy : Int) (sx sy : Nat) (src : Source) (r : Raster),
    r.pixels.length = r.w * r.h →
    let q := blit glyph ox oy sx sy src r
    q.w = r.w ∧ q.h = r.h ∧ q.pixels.length = r.pixels.length ∧
    ∀ x < r.w, ∀ y < r.h,
      q.pixels[y * r.w + x]? =
        if coversAt glyph ox oy sx sy x y then some (src.colourAt y) else r.pixels[y * r.w + x]?

/-- 42 R148: BUF_INIT (word 0x05000000) sets BUF_CUR to the requested size and every pixel to the fill colour, and changes nothing else;
beyond MAX_W or MAX_H it is TOO_LARGE. -/
def Obligations.BufInitFillsOrTooLarge : Prop :=
  decode 0x05000000 = .ok .bufInit ∧
  ∀ s : State,
    let w := field s.regs.bufReq 0 16
    let h := field s.regs.bufReq 16 16
    (w ≤ s.params.maxW → h ≤ s.params.maxH →
      ∃ t, exec .bufInit s = .next t ∧ Ended t 0x05 none false ∧ OnlyBuffer s t ∧
        t.bufCur = s.regs.bufReq ∧ t.bufW = w ∧ t.bufH = h ∧
        t.pix = List.replicate (w * h) (if flagBit s.regs.effects 0 then color s.regs.colorBg else ⟨0, 0, 0, 0⟩)) ∧
    (s.params.maxW < w ∨ s.params.maxH < h → Raises .bufInit s 0x05 .tooLarge)

/-- 42 R149, R150: BLIT completes when a font resolves and, for CSEL = grad, the palette fits; it paints the glyph's pixels
with the colour CSEL selects and changes nothing else. The error FONT_NOT_FOUND comes first. -/
def Obligations.BlitPaintsTheGlyph : Prop :=
  ∀ (s : State) (char : Nat) (csel : Csel),
    (s.resolveFont = none → Raises (.blit char csel) s 0x06 .fontNotFound) ∧
    ∀ f, s.resolveFont = some f → (csel = .grad → field s.regs.palCount 0 8 ≤ s.params.maxPalette) →
      s.pix.length = s.bufW * s.bufH →
      let src : Source := match csel with
        | .fg => .fixed (color s.regs.colorFg)
        | .outline => .fixed (color s.regs.colorOutline)
        | .shadow => .fixed (color s.regs.colorShadow)
        | .grad => .gradient ((List.range (field s.regs.palCount 0 8)).map fun e => color (s.palWord e)) s.bufH
            (sext 32 (field s.regs.gradOffset 0 32))
      ∃ t, exec (.blit char csel) s = .next t ∧ Ended t 0x06 none false ∧ OnlyPixels s t ∧
        t.pix.length = s.pix.length ∧
        ∀ x < s.bufW, ∀ y < s.bufH,
          t.pix[y * s.bufW + x]? =
            if coversAt (s.glyphRow f char) (sext 16 (field s.regs.blitOrigin 0 16))
                (sext 16 (field s.regs.blitOrigin 16 16)) (field s.regs.scale 0 8) (field s.regs.scale 8 8) x y
            then some (src.colourAt y) else s.pix[y * s.bufW + x]?

/-- 42 R145, R147, 43 R180: at scale 0, or of a blank glyph, a blit writes nothing; and no layer of a character whose glyph
is blank writes a pixel, whatever the effects. -/
def Obligations.EmptyBlitsWriteNothing : Prop :=
  (∀ (glyph : Nat → Byte) (ox oy : Int) (sx sy : Nat) (src : Source) (r : Raster),
    (sx = 0 ∨ sy = 0 ∨ ∀ row < 8, glyph row = 0) → blit glyph ox oy sx sy src r = r) ∧
  ∀ (p : Paint) (glyph : Nat → Byte) (k : Nat) (r : Raster), (∀ row < 8, glyph row = 0) → composite p glyph k r = r

/-! ### The text compositor -/

/-- 43 R172, R160, R161, R162: MEASURE (word 0x02000000) writes the dimensions of the text, which fit in 32 bits, and nothing else; and when
each dimension is 0. -/
def Obligations.MeasureWritesTheSize : Prop :=
  decode 0x02000000 = .ok .measure ∧
  ∀ s : State,
    (∃ t, exec .measure s = .next t ∧ Ended t 0x02 none false ∧ OnlyOutSize s t ∧
      t.outW.toNat = sizeW s.regs ∧ t.outH.toNat = sizeH s.regs) ∧
    sizeW s.regs ≤ 133821450 ∧ sizeH s.regs ≤ 132090 ∧
    (sizeW s.regs = 0 ↔ effSX s.regs = 0 ∨ (field s.regs.textLen 0 16 = 0 ∧
      max ((effDX s.regs).natAbs * effSX s.regs) (effT s.regs * effSX s.regs * 2) = 0)) ∧
    (sizeH s.regs = 0 ↔ effSY s.regs = 0)

/-- 43 R173: a DRAW that passes its checks writes OUT_W and OUT_H as MEASURE does. -/
def Obligations.MeasureAndDrawAgree : Prop :=
  ∀ s t u : State, exec .draw s = .next t → t.status.err = none → exec .measure s = .next u →
    t.outW = u.outW ∧ t.outH = u.outH

/-- 43 R170, R163 to R169, R175, R141: a DRAW that passes its checks makes a W × H buffer, each pixel of which is the
topmost layer of the last character that reaches it, else the fill; writes OUT_W, OUT_H and BUF_CUR; emits exactly one Put
of that buffer at POS; and changes nothing else. -/
def Obligations.DrawPaintsTheText : Prop :=
  ∀ (s : State) (f : Nat), s.params.Legal → Drawable s f →
    ∃ t, exec .draw s = .next t ∧ Ended t 0x03 none false ∧ OnlyDrawn s t ∧
      t.outW.toNat = sizeW s.regs ∧ t.outH.toNat = sizeH s.regs ∧
      t.bufW = sizeW s.regs ∧ t.bufH = sizeH s.regs ∧ t.pix.length = sizeW s.regs * sizeH s.regs ∧
      t.surface = s.surface ++
        [.put (sext 16 (field s.regs.pos 0 16)) (sext 16 (field s.regs.pos 16 16)) (sizeW s.regs) (sizeH s.regs) t.pix] ∧
      ∀ x < sizeW s.regs, ∀ y < sizeH s.regs,
        t.pix[y * sizeW s.regs + x]? =
          some (textPixel s.regs (foregroundOf s (sizeH s.regs)) (fun k => s.glyphRow f (s.textChar k)) x y
            (field s.regs.textLen 0 16))

/-- 43 R170, 60 R205: the errors of DRAW, each with the checks before it passed; the no-op test precedes TOO_LARGE. -/
def Obligations.DrawErrorsInOrder : Prop :=
  ∀ (s : State) (f : Nat),
    let len := field s.regs.textLen 0 16
    let paletteBad : Prop := flagBit s.regs.effects 3 = true ∧ s.params.maxPalette < field s.regs.palCount 0 8
    (s.resolveFont = none → Raises .draw s 0x03 .fontNotFound) ∧
    (s.resolveFont = some f → s.params.maxText < len → Raises .draw s 0x03 .param) ∧
    (s.resolveFont = some f → paletteBad → Raises .draw s 0x03 .param) ∧
    (s.resolveFont = some f → len ≤ s.params.maxText → ¬ paletteBad → sizeW s.regs ≠ 0 → sizeH s.regs ≠ 0 →
      (s.params.maxW < sizeW s.regs ∨ s.params.maxH < sizeH s.regs) → Raises .draw s 0x03 .tooLarge)

/-- 43 R171: a DRAW with W = 0 or H = 0 that passed the checks before is a no-op: it writes OUT_W, OUT_H and STATUS (ERR = 0,
NOOP = 1), and changes nothing else. -/
def Obligations.DrawNoop : Prop :=
  ∀ (s : State) (f : Nat), s.resolveFont = some f → field s.regs.textLen 0 16 ≤ s.params.maxText →
    (flagBit s.regs.effects 3 = true → field s.regs.palCount 0 8 ≤ s.params.maxPalette) →
    (sizeW s.regs = 0 ∨ sizeH s.regs = 0) →
    ∃ t, exec .draw s = .next t ∧ Ended t 0x03 none true ∧ OnlyOutSize s t ∧
      t.outW.toNat = sizeW s.regs ∧ t.outH.toNat = sizeH s.regs

/-- 43 R174: an empty string with both dimensions non-zero gives a buffer of width extraX holding only the fill, and its
Put; with extraX = 0 it is the no-op. -/
def Obligations.EmptyStringDraws : Prop :=
  ∀ (s : State) (f : Nat), s.params.Legal → s.resolveFont = some f → field s.regs.textLen 0 16 = 0 →
    (flagBit s.regs.effects 3 = true → field s.regs.palCount 0 8 ≤ s.params.maxPalette) →
    let extraX := max ((effDX s.regs).natAbs * effSX s.regs) (effT s.regs * effSX s.regs * 2)
    sizeW s.regs = extraX ∧
    (0 < extraX → extraX ≤ s.params.maxW → 0 < sizeH s.regs → sizeH s.regs ≤ s.params.maxH →
      ∃ t, exec .draw s = .next t ∧ Ended t 0x03 none false ∧ t.bufW = extraX ∧ t.bufH = sizeH s.regs ∧
        t.pix = List.replicate (extraX * sizeH s.regs) (fillOf s.regs) ∧
        t.surface = s.surface ++
          [.put (sext 16 (field s.regs.pos 0 16)) (sext 16 (field s.regs.pos 16 16)) extraX (sizeH s.regs) t.pix]) ∧
    (extraX = 0 → ∃ t, exec .draw s = .next t ∧ Ended t 0x03 none true ∧ OnlyOutSize s t)

/-- 43 R168: the outline's offsets are the pairs of [-t, t]² less (0, 0), each once, (2t+1)² - 1 of them. -/
def Obligations.OutlineOffsetsFillTheSquare : Prop :=
  ∀ t : Nat,
    (∀ ox oy : Int, (ox, oy) ∈ outlineOffsets t ↔
      (-(t : Int) ≤ ox ∧ ox ≤ t) ∧ (-(t : Int) ≤ oy ∧ oy ≤ t) ∧ (ox, oy) ≠ (0, 0)) ∧
    (outlineOffsets t).Nodup ∧ (outlineOffsets t).length = (2 * t + 1) ^ 2 - 1

/-- 43 R181: one fully lit character at scale 1 with an outline of thickness 1 and no shadow: a 10 × 10 buffer whose border
is the outline colour and whose inner 8 × 8 pixels are the foreground colour. -/
def Obligations.OutlineHalo : Prop :=
  ∀ (s : State) (f : Nat), s.params.Legal → Drawable s f → field s.regs.textLen 0 16 = 1 →
    (∀ row < 8, s.glyphRow f (s.textChar 0) row = 0xFF) → effSX s.regs = 1 → effSY s.regs = 1 →
    flagBit s.regs.effects 1 = true → field s.regs.outline 0 8 = 1 → flagBit s.regs.effects 2 = false →
    flagBit s.regs.effects 3 = false →
    ∃ t, exec .draw s = .next t ∧ t.bufW = 10 ∧ t.bufH = 10 ∧
      ∀ x < 10, ∀ y < 10,
        t.pix[y * 10 + x]? =
          some (if 1 ≤ x ∧ x ≤ 8 ∧ 1 ≤ y ∧ y ≤ 8 then color s.regs.colorFg else color s.regs.colorOutline)

/-- 43 R166: no origin a DRAW that passes its checks gives to `blit`, and no pixel of such a blit, is out of the stated
ranges, so 32 signed bits hold every coordinate. -/
def Obligations.CoordinatesAreBounded : Prop :=
  ∀ (s : State) (f k : Nat) (o : Int × Int) (glyph : Nat → Byte), s.params.Legal → Drawable s f →
    k < field s.regs.textLen 0 16 →
    (o = (0, 0) ∨ o ∈ outlineOffsets (effT s.regs) ∨ o = (effDX s.regs, effDY s.regs)) →
    let ox : Int := k * 8 * effSX s.regs + effT s.regs * effSX s.regs + o.1 * effSX s.regs
    let oy : Int := effT s.regs * effSY s.regs + o.2 * effSY s.regs
    (-2 * 128 * 255 ≤ ox ∧ ox ≤ 2048 + 2 * 255 * 255) ∧ (-2 * 128 * 255 ≤ oy ∧ oy ≤ 2048 + 2 * 255 * 255) ∧
    ∀ p ∈ blitPixels glyph ox oy (effSX s.regs) (effSY s.regs),
      (ox ≤ p.1 ∧ p.1 < ox + 8 * 255) ∧ (oy ≤ p.2 ∧ p.2 < oy + 8 * 255)

/-- 10 R31, 43 R160, R164, R165, 41 R124, 42 R148: a disabled effect contributes nothing: with BG_EN = 0 COLOR_BG, with
OUTLINE_EN = 0 OUTLINE and COLOR_OUTLINE, with SHADOW_EN = 0 SHADOW and COLOR_SHADOW, and with GRAD_EN = 0 PAL_COUNT,
GRAD_OFFSET and PAL have no influence on a DRAW, a MEASURE or a BUF_INIT. -/
def Obligations.DisabledEffectsAreIgnored : Prop :=
  ∀ (s t : State) (i : Instr) (g : Regs) (m : Memory), i = .draw ∨ i = .measure ∨ i = .bufInit →
    DifferWhereDisabled s g m → exec i s = .next t →
    exec i { s with regs := g, mem := m } = .next { t with regs := g, mem := m }

/-- 43 R176: PRESENT (word 0x07000000) of a buffer with pixels emits exactly one Put of it at POS and changes nothing else; of an empty buffer
it is a no-op. -/
def Obligations.PresentPutsTheBuffer : Prop :=
  decode 0x07000000 = .ok .present ∧
  ∀ s : State,
    (s.bufW ≠ 0 → s.bufH ≠ 0 →
      ∃ t, exec .present s = .next t ∧ Ended t 0x07 none false ∧ OnlySurface s t ∧
        t.surface = s.surface ++
          [.put (sext 16 (field s.regs.pos 0 16)) (sext 16 (field s.regs.pos 16 16)) s.bufW s.bufH s.pix]) ∧
    (s.bufW = 0 ∨ s.bufH = 0 → ∃ t, exec .present s = .next t ∧ Ended t 0x07 none true ∧ OnlyStatus s t)

/-! ### The host's accesses -/

/-- 10 R22, 70 R221: a 32-bit host write to CMD while BUSY = 0 hands over the word: PENDING <- w, BUSY <- 1, DONE <- 0, and
ERR, NOOP, LASTOP and everything else stay. -/
def Obligations.CmdWriteHandsOver : Prop :=
  ∀ (s : State) (w : Word) (rest : List HostOp) (q : List Agent),
    HostTurnAt s (.write .w32 0x000004 w) rest q → s.busy = false →
    step s = .next { Replied s rest q .ack with pending := some w, status := { s.status with done := false } }

/-- 10 R53: a host write to a read-write register stores its defined fields only, and a read returns them, reserved bits
being 0; no other register changes. -/
def Obligations.RegistersKeepTheirFields : Prop :=
  ∀ (s : State) (a : Nat) (m v : Word) (rest : List HostOp), (a, m) ∈ rwRegisters → s.busy = false → s.sched = [] →
    s.host = .write .w32 (BitVec.ofNat 24 a) v :: .read .w32 (BitVec.ofNat 24 a) :: rest →
    ∃ t, runSteps 2 s = .next t ∧ t.replies = s.replies ++ [.ack, .data (v &&& m)] ∧
      t = { s with regs := t.regs, host := rest, replies := t.replies, draws := t.draws } ∧
      ∀ r r', regAt a = some r → r' ≠ r → t.readReg r' = s.readReg r'

/-- 20 R68, 10 R53: a host write to a read-only register is ignored without a bus error. And 10 R21 to R44: with BUSY = 0 a
32-bit read of a register returns its value; FONT_VALID shows the bits of the slots that exist, the others 0 (R24), and
FONT_DEFAULT is DVALID bit 31 and DSLOT [7:0], 0 with no default font (R25). -/
def Obligations.ReadOnlyRegistersIgnoreWrites : Prop :=
  (∀ (s : State) (a : Nat) (v : Word) (rest : List HostOp) (q : List Agent), a ∈ readOnlyRegisters → s.busy = false →
    HostTurnAt s (.write .w32 (BitVec.ofNat 24 a) v) rest q → step s = .next (Replied s rest q .ack)) ∧
  ∀ (s : State) (a : Nat) (rest : List HostOp) (q : List Agent), s.busy = false →
    HostTurnAt s (.read .w32 (BitVec.ofNat 24 a)) rest q →
    (∀ v, (a, v) ∈ registerValues s → step s = .next (Replied s rest q (.data v))) ∧
    (a = 0x0C → ∃ v, step s = .next (Replied s rest q (.data v)) ∧
      ∀ k < 32, flagBit v k = (decide (k < s.params.fontSlots) && flagBit s.fontValid k)) ∧
    (a = 0x10 → s.fontDefault = none → step s = .next (Replied s rest q (.data 0))) ∧
    (∀ d, a = 0x10 → s.fontDefault = some d → ∃ v, step s = .next (Replied s rest q (.data v)) ∧
      flagBit v 31 = true ∧ field v 8 23 = 0 ∧ field v 0 8 = d.toNat)

/-- 20 R63, R64, R67, R68 (BUSY = 0; log 8 says what the model does while BUSY = 1): an access is answered by a bus error
exactly when its width, alignment or address is bad, or it is a write to GLYPH or PIX; and it then changes nothing. -/
def Obligations.BusErrorsChangeNothing : Prop :=
  ∀ (s : State) (w : Width) (a : Addr) (v : Word) (rest : List HostOp) (q : List Agent),
    s.params.Legal → s.busy = false →
    (HostTurnAt s (.read w a) rest q →
      (BadAccess s.params w a.toNat → step s = .next (Replied s rest q .busError)) ∧
      (¬ BadAccess s.params w a.toNat → ∃ d, step s = .next (Replied s rest q (.data d)))) ∧
    (HostTurnAt s (.write w a v) rest q →
      (BadAccess s.params w a.toNat ∨ 0x10000 ≤ a.toNat → step s = .next (Replied s rest q .busError)) ∧
      (¬ (BadAccess s.params w a.toNat ∨ 0x10000 ≤ a.toNat) →
        ∃ t, step s = .next t ∧ t.replies = s.replies ++ [.ack]))

/-- 20 R65, R62: a host write to PAL, STAGE or TEXT moves its bytes in little-endian order, and no other byte and nothing
else of the block changes; and a host read of any width of a memory window returns its bytes in that order, zero-extended. -/
def Obligations.HostAccessesAreLittleEndian : Prop :=
  (∀ (s : State) (w : Width) (a : Addr) (v : Word) (rest : List HostOp) (q : List Agent),
    s.params.Legal → s.busy = false → HostTurnAt s (.write w a v) rest q →
    ¬ BadAccess s.params w a.toNat → 0x70 ≤ a.toNat → a.toNat < 0x10000 →
    ∃ t, step s = .next t ∧ t = { Replied s rest q .ack with mem := t.mem } ∧
      (∀ k < w.bytes, t.byteAt (a.toNat + k) = some (BitVec.ofNat 8 (v.toNat / 256 ^ k))) ∧
      ∀ b, ¬ (a.toNat ≤ b ∧ b < a.toNat + w.bytes) → t.byteAt b = s.byteAt b) ∧
  ∀ (s : State) (w : Width) (a : Addr) (b : Nat → Byte) (rest : List HostOp) (q : List Agent),
    s.busy = false → HostTurnAt s (.read w a) rest q → a.toNat % w.bytes = 0 → 0x70 ≤ a.toNat →
    (∀ k < w.bytes, s.byteAt (a.toNat + k) = some (b k)) →
    step s = .next (Replied s rest q (.data (BitVec.ofNat 32 (∑ k ∈ Finset.range w.bytes, (b k).toNat * 256 ^ k))))

/-- 10 R49, R32: the host reads the pixel in column x of row y as its colour word at byte offset 4·(y·W + x) of PIX. -/
def Obligations.PixWindowShowsThePixels : Prop :=
  ∀ (s : State) (x y : Nat) (c : Color) (a : Addr) (rest : List HostOp) (q : List Agent), Inv s → s.busy = false →
    x < s.bufW → y < s.bufH → s.pix[y * s.bufW + x]? = some c → a.toNat = 0x800000 + 4 * (y * s.bufW + x) →
    HostTurnAt s (.read .w32 a) rest q → step s = .next (Replied s rest q (.data (colorWord c)))

/-- 20 R69: no host read has a side effect, busy or not: it only appends its answer, and every register and memory byte the
host can read, and the surface log, are as before. -/
def Obligations.ReadsHaveNoSideEffect : Prop :=
  ∀ (s : State) (w : Width) (a : Addr) (rest : List HostOp) (q : List Agent), HostTurnAt s (.read w a) rest q →
    ∃ r t, step s = .next t ∧ t = Replied s rest q r ∧ SameResult { t with replies := s.replies } s

/-- 20 R63, R70, 70 R226: while BUSY = 1 a read of ID or STATUS returns its defined value, a narrow or misaligned read at an
address of either is a bus error, and a read of any other address that is no bus error returns some value of the access
width. -/
def Obligations.ReadsWhileBusy : Prop :=
  ∀ (s : State) (w : Width) (a : Addr) (rest : List HostOp) (q : List Agent), s.busy = true →
    HostTurnAt s (.read w a) rest q →
    (w = .w32 → a = 0x000000 → step s = .next (Replied s rest q (.data 0x01425247))) ∧
    (w = .w32 → a = 0x000008 → step s = .next (Replied s rest q (.data s.statusWord))) ∧
    (a.toNat < 4 ∨ 8 ≤ a.toNat ∧ a.toNat < 12 → w ≠ .w32 ∨ a.toNat % 4 ≠ 0 →
      step s = .next (Replied s rest q .busError)) ∧
    (¬ BadAccess s.params w a.toNat → s.params.Legal →
      ∃ d : Word, d.toNat < 2 ^ (8 * w.bytes) ∧ step s = .next (Replied s rest q (.data d)))

/-- 70 R225: a host write while BUSY = 1, to any address, is refused; nothing else is refused, and nothing faults. -/
def Obligations.OnlyBusyWritesAreRefused : Prop :=
  (∀ (s : State) (w : Width) (a : Addr) (v : Word) (rest : List HostOp) (q : List Agent), s.busy = true →
    HostTurnAt s (.write w a v) rest q → step s = .refused .hostWriteWhileBusy) ∧
  ∀ s : State, (∃ t, step s = .next t) ∨
    (step s = .refused .hostWriteWhileBusy ∧ s.busy = true ∧ ∃ w a v rest, s.host = .write w a v :: rest)

/-- 30 R89, 20 R73, 70 R229: a poll of `wait` reads STATUS and changes nothing, and the host goes on to its next access
exactly when BUSY = 0; and how many polls come before the engine's step has no influence on what they leave, but for the
polls' own answers, nor on the result. -/
def Obligations.WaitPollsStatus : Prop :=
  (∀ (s : State) (rest : List HostOp) (q : List Agent), HostTurnAt s .wait rest q →
    step s = .next { s with
      host := if s.busy then .wait :: rest else rest, sched := q, replies := s.replies ++ [.polled s.statusWord] }) ∧
  ∀ (s : State) (w : Word) (rest : List HostOp) (n : Nat), s.pending = some w → s.host = .wait :: rest →
    ∃ t u, runSteps (n + 1) { s with sched := List.replicate n .host ++ [.engine] } = .next t ∧
      runSteps 1 { s with sched := [.engine] } = .next u ∧ t = { u with replies := t.replies } ∧ SameResult t u

/-- 10 R23: the fields of the STATUS word; its reserved bits read 0. -/
def Obligations.StatusWordFields : Prop :=
  ∀ s : State,
    flagBit s.statusWord 0 = s.busy ∧ flagBit s.statusWord 1 = s.status.done ∧ flagBit s.statusWord 2 = s.status.noop ∧
    flagBit s.statusWord 3 = false ∧ field s.statusWord 4 4 = s.status.errCode ∧
    field s.statusWord 8 8 = s.status.lastOp.toNat ∧ field s.statusWord 16 16 = 0

/-- 10 R32: packing and unpacking a colour word are inverse. -/
def Obligations.ColourWordsRoundTrip : Prop :=
  (∀ c : Color, color (colorWord c) = c) ∧ (∀ w : Word, colorWord (color w) = w)

/-- 70 R221, R222, 95 V-HZ-2: after a hand-over, one STATUS read may come before the engine's step, and shows BUSY = 1, or
after it, and shows BUSY = 0 and DONE = 1 (log 4). -/
def Obligations.StatusReadMayRaceTheEngine : Prop :=
  ∀ (s : State) (w : Word), s.pending = some w → s.host = [.read .w32 0x000008] →
    (∃ t v, runSteps 2 { s with sched := [.host, .engine] } = .next t ∧ t.replies = s.replies ++ [.data v] ∧
      flagBit v 0 = true) ∧
    (∃ t v, runSteps 2 { s with sched := [.engine, .host] } = .next t ∧ t.replies = s.replies ++ [.data v] ∧
      flagBit v 0 = false ∧ flagBit v 1 = true)

/-! ### Reset -/

/-- 70 R220: every register of the reset table reads its reset value right after reset, for every choice of parameters; the
engine is idle, no memory byte has a value the spec gives, and the surface log is empty. -/
def Obligations.ResetRegisterValues : Prop :=
  ∀ p : Params,
    (∀ a v, (a, v) ∈ resetTable → (regAt a).map (State.resetWith p).readReg = some v) ∧
    (State.resetWith p).pending = none ∧ (∀ a, (State.resetWith p).byteAt a = none) ∧
    (State.resetWith p).surface = []

/-- 70 R220 (log 10): the reset input, in any state: the registers take their reset values, PENDING is empty, no byte keeps a
value, the parameters stay, no event is taken back, and at most the events of the command then pending are added. -/
def Obligations.ResetInput : Prop :=
  ∀ (s : State) (rest : List HostOp) (q : List Agent), HostTurnAt s .reset rest q →
    ∃ t, step s = .next t ∧ (∀ r, t.readReg r = (State.resetWith s.params).readReg r) ∧ t.pending = none ∧
      (∀ a, t.byteAt a = none) ∧ t.params = s.params ∧ t.host = rest ∧
      (t.surface = s.surface ∨
        ∃ u, s.pending ≠ none ∧ engineTurn { s with host := rest, sched := q } = .next u ∧ t.surface = u.surface)

/-! ### The whole machine -/

/-- 10 R49, R53, R24, R23, R52, 40 R103, R105: the invariant holds right after reset. -/
def Obligations.ResetMeetsInvariant : Prop := ∀ p : Params, p.Legal → Inv (State.resetWith p)

/-- The invariant of the block (`Inv`: legal parameters, the memories' canonical form, PIX of the size BUF_CUR says,
reserved bits 0, fonts valid only where held and a valid default, STATUS consistent, surface events in range) is kept by
every step of either agent. -/
def Obligations.StepKeepsInvariant : Prop := ∀ s t : State, Inv s → step s = .next t → Inv t

/-- 10 R52, 70 R220: the surface log only grows, and only while a command is pending. -/
def Obligations.SurfaceLogOnlyGrows : Prop :=
  ∀ s t : State, step s = .next t →
    (∃ l, t.surface = s.surface ++ l ∧ l.length ≤ 1) ∧ (s.pending = none → t.surface = s.surface)

/-- 70 R223: a pending command is never postponed forever: within the length of `sched` plus one steps (log 4) it has been
performed, if the host waits before it writes and does not reset the block. -/
def Obligations.PendingCommandIsPerformed : Prop :=
  ∀ (s : State) (w : Word), s.pending = some w → waitsBeforeWriting true s.host = true → HostOp.reset ∉ s.host →
    ∃ n t, n ≤ s.sched.length + 1 ∧ runSteps n s = .next t ∧ t.pending = none ∧ t.status.done = true ∧
      t.status.lastOp = BitVec.ofNat 8 (field w 24 8)

/-- 70 R225, 30 R89: that the host waits after every command it hands over before it writes again (`waitsBeforeWriting`) is
kept by every step, and under it every step answers a next state; so no run is refused, whatever the commands, the schedule
and the resets. -/
def Obligations.WaitingHostIsNeverRefused : Prop :=
  (∀ s : State, waitsBeforeWriting s.busy s.host = true →
    ∃ t, step s = .next t ∧ waitsBeforeWriting t.busy t.host = true) ∧
  ∀ s : State, waitsBeforeWriting s.busy s.host = true → Safe s
end

