-- ==== Sys2Proof/Laws/Fields.lean ====
section
/-! SUPPORT. Bit fields, sign extension, colour words and the status word: one small lemma per property. -/

namespace Sys2Proof

theorem field_lt (w : Word) (lo n : Nat) : field w lo n < 2 ^ n := Nat.mod_lt _ (Nat.two_pow_pos n)

@[simp] theorem field_ofNat (v lo n : Nat) : field (BitVec.ofNat 32 v) lo n = v % 2 ^ 32 / 2 ^ lo % 2 ^ n := by
  simp [field]

theorem sext16_range (v : Nat) (h : v < 2 ^ 16) : -32768 ≤ sext 16 v ∧ sext 16 v ≤ 32767 := by
  unfold sext; split <;> omega

theorem sext8_range (v : Nat) (h : v < 2 ^ 8) : -128 ≤ sext 8 v ∧ sext 8 v ≤ 127 := by
  unfold sext; split <;> omega

theorem sext8_natAbs_le (v : Nat) (h : v < 2 ^ 8) : (sext 8 v).natAbs ≤ 128 := by
  have := sext8_range v h; omega

/-- A flag is one bit of the word. -/
theorem flagBit_eq_getLsbD (w : Word) (k : Nat) : flagBit w k = w.getLsbD k := by
  simp only [flagBit, field, BitVec.getLsbD, Nat.testBit, Nat.shiftRight_eq_div_pow, Nat.pow_one]
  rcases Nat.mod_two_eq_zero_or_one (w.toNat / 2 ^ k) with h | h <;> simp [h]

/-- Setting bit `slot` of FONT_VALID sets that flag and no other (40 R101). -/
theorem flagBit_or_pow (w : Word) (slot k : Nat) (h : slot < 32) :
    flagBit (w ||| BitVec.ofNat 32 (2 ^ slot)) k = (flagBit w k || decide (k = slot)) := by
  simp only [flagBit_eq_getLsbD, BitVec.getLsbD_or, BitVec.getLsbD_ofNat, Nat.testBit_two_pow]
  by_cases hk : k = slot
  · subst hk; simp [h]
  · simp [hk, Ne.symm hk]

/-- No flag is set in the zero word. -/
@[simp] theorem flagBit_zero (k : Nat) : flagBit 0#32 k = false := by simp [flagBit_eq_getLsbD]

end Sys2Proof

namespace Sys2Proof.Machine

theorem pairWord_lo (lo hi : Nat) : field (pairWord lo hi) 0 16 = lo % 65536 := by
  simp only [pairWord, field_ofNat]; omega

theorem pairWord_hi (lo hi : Nat) : field (pairWord lo hi) 16 16 = hi % 65536 := by
  simp only [pairWord, field_ofNat]; omega

/-- A word is the pair of its halves. -/
theorem pairWord_fields (w : Word) : pairWord (field w 0 16) (field w 16 16) = w := by
  apply BitVec.eq_of_toNat_eq
  have := w.isLt
  simp only [pairWord, field, BitVec.toNat_ofNat]; omega

/-- BUF_CUR reads back the width it was given (10 R43). -/
theorem setBuffer_bufW (s : State) (w h : Nat) (l : List Color) (hw : w < 65536) : (s.setBuffer w h l).bufW = w := by
  simp only [State.bufW, State.setBuffer, pairWord_lo]; omega

/-- BUF_CUR reads back the height it was given (10 R43). -/
theorem setBuffer_bufH (s : State) (w h : Nat) (l : List Color) (hh : h < 65536) : (s.setBuffer w h l).bufH = h := by
  simp only [State.bufH, State.setBuffer, pairWord_hi]; omega

theorem errCode_le (t : Status) : t.errCode ≤ 6 := by
  unfold Status.errCode; split
  · omega
  · rename_i e _; cases e <;> decide

end Sys2Proof.Machine
end

