-- ==== Sys2Proof/Laws/Memory.lean ====
section
/-! SUPPORT. The byte memories: reading after a write, and every operation keeps the canonical form. -/

namespace Sys2Proof.Machine

theorem read_write_same (m : Memory) (a : Nat) (v : Byte) : (m.write a v).read a = some v := by
  induction m with
  | nil => simp [Memory.write, Memory.read]
  | cons c m ih =>
    unfold Memory.write
    split
    · simp [Memory.read]
    · split
      · simp [Memory.read]
      · rename_i h1 h2
        have : c.1 ≠ a := fun h => h2 h.symm
        simp [Memory.read, this, ih]

theorem read_write_other (m : Memory) (a b : Nat) (v : Byte) (h : b ≠ a) : (m.write a v).read b = m.read b := by
  induction m with
  | nil => simp [Memory.write, Memory.read, h.symm]
  | cons c m ih =>
    unfold Memory.write
    split
    · simp [Memory.read, h.symm]
    · split
      · rename_i h1 h2
        have : c.1 ≠ b := fun hc => h (hc.symm.trans h2.symm)
        simp [Memory.read, h.symm, this]
      · simp [Memory.read, ih]

/-- Every cell of a written memory is the new one or an old one. -/
theorem mem_write (m : Memory) (a : Nat) (v : Byte) (c : Host.Cell) (h : c ∈ m.write a v) : c = (a, v) ∨ c ∈ m := by
  induction m with
  | nil => simpa [Memory.write] using h
  | cons d m ih =>
    unfold Memory.write at h
    split at h
    · simpa using h
    · split at h
      · rcases List.mem_cons.1 h with h | h
        · exact .inl h
        · exact .inr (List.mem_cons_of_mem _ h)
      · rcases List.mem_cons.1 h with h | h
        · exact .inr (by simp [h])
        · exact (ih h).imp id (List.mem_cons_of_mem _)

/-- A byte write keeps the canonical form. -/
theorem wf_write (m : Memory) (a : Nat) (v : Byte) (h : m.wf) : (m.write a v).wf := by
  induction m with
  | nil => simp [Memory.write, Memory.wf]
  | cons c m ih =>
    have hc := List.pairwise_cons.1 h
    unfold Memory.write
    split
    · rename_i h1
      exact List.pairwise_cons.2
        ⟨fun d hd => (List.mem_cons.1 hd).elim (fun e => e ▸ h1) (fun e => Nat.lt_trans h1 (hc.1 d e)), h⟩
    · split
      · rename_i h1 h2
        exact List.pairwise_cons.2 ⟨fun d hd => by simpa [h2] using hc.1 d hd, hc.2⟩
      · rename_i h1 h2
        refine List.pairwise_cons.2 ⟨fun d hd => ?_, ih hc.2⟩
        rcases mem_write m a v d hd with rfl | hd
        · exact Nat.lt_of_le_of_ne (Nat.le_of_not_lt h1) (Ne.symm h2)
        · exact hc.1 d hd

/-- A host write of up to four bytes keeps the canonical form. -/
theorem wf_writeBytes (m : Memory) (a : Nat) (v : Word) (n : Nat) (h : m.wf) : (m.writeBytes a v n).wf := by
  unfold Memory.writeBytes
  induction n with
  | zero => simpa using h
  | succ n ih => simpa [List.range_succ] using wf_write _ _ _ ih

theorem read_writeBytes (m : Memory) (a : Nat) (v : Word) (n b : Nat) :
    (m.writeBytes a v n).read b = if a ≤ b ∧ b < a + n then some (byteOfWord v (b - a)) else m.read b := by
  unfold Memory.writeBytes
  induction n with
  | zero => simp
  | succ n ih =>
    simp only [List.range_succ, List.foldl_append, List.foldl_cons, List.foldl_nil]
    by_cases hb : b = a + n
    · subst hb; simp [read_write_same]
    · rw [read_write_other _ _ _ _ hb, ih]
      congr 1
      simp only [eq_iff_iff]; omega

theorem mem_writeBytes (m : Memory) (a : Nat) (v : Word) (n : Nat) (c : Host.Cell) (h : c ∈ m.writeBytes a v n) :
    (∃ k < n, c.1 = a + k) ∨ c ∈ m := by
  unfold Memory.writeBytes at h
  induction n with
  | zero => exact .inr (by simpa using h)
  | succ n ih =>
    simp only [List.range_succ, List.foldl_append, List.foldl_cons, List.foldl_nil] at h
    rcases mem_write _ _ _ _ h with rfl | h
    · exact .inl ⟨n, by omega, rfl⟩
    · exact (ih h).imp (fun ⟨k, hk, e⟩ => ⟨k, by omega, e⟩) id

theorem read_append (m n : Memory) (a : Nat) : Memory.read (m ++ n) a = (m.read a).or (n.read a) := by
  induction m with
  | nil => simp [Memory.read]
  | cons c m ih => by_cases h : c.1 = a <;> simp [Memory.read, h, ih]

theorem read_filter (m : Memory) (p : Nat → Bool) (a : Nat) :
    Memory.read (m.filter fun c => p c.1) a = if p a then m.read a else none := by
  induction m with
  | nil => simp [Memory.read]
  | cons c m ih =>
    by_cases hc : p c.1 <;> by_cases ha : c.1 = a
    · subst ha; simp [Memory.read, hc]
    · simp [Memory.read, hc, ha, ih]
    · subst ha; simp [hc, ih]
    · simp [Memory.read, hc, ha, ih]

theorem read_cellsFrom (a : Nat) (vs : List Byte) (b : Nat) :
    (cellsFrom a vs).read b = if a ≤ b then vs[b - a]? else none := by
  induction vs generalizing a with
  | nil => simp [cellsFrom, Memory.read]
  | cons v vs ih =>
    simp only [cellsFrom, Memory.read, ih]
    rcases Nat.lt_trichotomy a b with h | rfl | h
    · rw [if_neg (by omega), if_pos (by omega), if_pos (by omega), show b - a = (b - (a + 1)) + 1 by omega]; rfl
    · simp
    · rw [if_neg (by omega), if_neg (by omega), if_neg (by omega)]

theorem mem_cellsFrom (a : Nat) (vs : List Byte) (c : Host.Cell) (h : c ∈ cellsFrom a vs) :
    a ≤ c.1 ∧ c.1 < a + vs.length := by
  induction vs generalizing a with
  | nil => simp [cellsFrom] at h
  | cons v vs ih =>
    rcases List.mem_cons.1 h with rfl | h
    · simp
    · have := ih _ h; simp only [List.length_cons]; omega

theorem wf_cellsFrom (a : Nat) (vs : List Byte) : (cellsFrom a vs).wf := by
  induction vs generalizing a with
  | nil => simp [cellsFrom, Memory.wf]
  | cons v vs ih => exact List.pairwise_cons.2 ⟨fun d hd => by have := mem_cellsFrom _ _ _ hd; simp; omega, ih _⟩

/-- Reading after a fill: the filled bytes, and elsewhere what was there. -/
theorem read_fill (m : Memory) (a : Nat) (vs : List Byte) (b : Nat) :
    (m.fill a vs).read b = if a ≤ b ∧ b < a + vs.length then vs[b - a]? else m.read b := by
  unfold Memory.fill
  rw [read_append, read_append, read_filter m (fun x => decide (x < a)),
    read_filter m (fun x => decide (a + vs.length ≤ x)), read_cellsFrom]
  rcases Nat.lt_or_ge b a with h | h
  · have h1 : ¬ (a ≤ b) := by omega
    have h2 : ¬ (a + vs.length ≤ b) := by omega
    simp [h, h1, h2]
  · rcases Nat.lt_or_ge b (a + vs.length) with h' | h'
    · have h1 : ¬ (b < a) := by omega
      have h2 : b - a < vs.length := by omega
      simp [h, h', h1, h2]
    · have h1 : ¬ (b < a) := by omega
      have h2 : ¬ (b - a < vs.length) := by omega
      have h3 : vs[b - a]? = none := List.getElem?_eq_none (by omega)
      simp [h, h', h1, h3]

theorem mem_fill (m : Memory) (a : Nat) (vs : List Byte) (c : Host.Cell) (h : c ∈ m.fill a vs) :
    (a ≤ c.1 ∧ c.1 < a + vs.length) ∨ c ∈ m := by
  unfold Memory.fill at h
  rcases List.mem_append.1 h with h | h
  · rcases List.mem_append.1 h with h | h
    · exact .inr (List.mem_filter.1 h).1
    · exact .inl (mem_cellsFrom _ _ _ h)
  · exact .inr (List.mem_filter.1 h).1

/-- A fill keeps the canonical form. -/
theorem wf_fill (m : Memory) (a : Nat) (vs : List Byte) (h : m.wf) : (m.fill a vs).wf := by
  unfold Memory.fill
  refine List.pairwise_append.2 ⟨List.pairwise_append.2 ⟨h.filter _, wf_cellsFrom a vs, ?_⟩, h.filter _, ?_⟩
  · intro c hc d hd
    have h1 := (List.mem_filter.1 hc).2
    have h2 := mem_cellsFrom _ _ _ hd
    simp only [decide_eq_true_eq] at h1; omega
  · intro c hc d hd
    have h2 := (List.mem_filter.1 hd).2
    simp only [decide_eq_true_eq] at h2
    rcases List.mem_append.1 hc with hc | hc
    · have h1 := (List.mem_filter.1 hc).2
      simp only [decide_eq_true_eq] at h1; omega
    · have h1 := mem_cellsFrom _ _ _ hc; omega

/-- The memory right after reset has the canonical form. -/
theorem reset_mem_wf : State.reset.mem.wf := List.Pairwise.nil

end Sys2Proof.Machine
end

