-- ==== Sys2Proof/Laws/Bus.lean ====
section
/-! SUPPORT. The aperture map: which addresses each window holds, which accesses get no bus error, and what an access does. -/

namespace Sys2Proof.Machine

/-- The addresses of a window (20 R62). -/
def Window.Holds (p : Params) (a : Nat) : Window → Prop
  | .pal => 0x100 ≤ a ∧ a < 0x100 + 4 * p.maxPalette
  | .stage => 0x1000 ≤ a ∧ a < 0x2000
  | .text => 0x2000 ≤ a ∧ a < 0x2000 + p.maxText
  | .glyph => 0x10000 ≤ a ∧ a < 0x10000 + 2048 * p.fontSlots
  | .pix => 0x800000 ≤ a ∧ a < 0x800000 + 4 * p.maxW * p.maxH

/-- With legal parameters "the ranges do not overlap" (20 R62): an address is in a window exactly when the window's range
holds it. -/
theorem windowAt_iff (p : Params) (hp : p.Legal) (a : Nat) (w : Window) : windowAt p a = some w ↔ w.Holds p a := by
  obtain ⟨h1, h2, h3, h4, h5⟩ := hp
  have key : ∀ x : Option Window, windowAt p a = x → (x = some w ↔ w.Holds p a) := by
    unfold windowAt
    simp only [Config.palBase, Config.stageBase, Config.textBase, Config.glyphBase, Config.pixBase, Config.stageSize,
      Config.fontBytes]
    intro x hx
    split_ifs at hx <;> subst hx <;> cases w <;> simp [Window.Holds] <;> omega
  exact key _ rfl

/-- An address of a window is in one of the five ranges, whatever the parameters. -/
theorem windowAt_holds (p : Params) (a : Nat) (w : Window) (h : windowAt p a = some w) : w.Holds p a := by
  unfold windowAt at h
  simp only [Config.palBase, Config.stageBase, Config.textBase, Config.glyphBase, Config.pixBase, Config.stageSize,
    Config.fontBytes] at h
  split_ifs at h <;> cases h <;> simp only [Window.Holds] <;> omega

/-- The windows the host can write are the ones below 0x010000 (20 R62, R68). -/
theorem writable_iff_low (p : Params) (hp : p.Legal) (a : Nat) (w : Window) (h : windowAt p a = some w) :
    w.writable = true ↔ a < 0x10000 := by
  have hw := (windowAt_iff p hp a w).1 h
  obtain ⟨h1, h2, h3, h4, h5⟩ := hp
  cases w <;> simp [Window.writable, Window.Holds] at hw ⊢ <;> omega

/-- What a host read's check accepts beyond the registers (20 R67). -/
theorem readOk_window (p : Params) (w : Width) (a : Nat) (ha : ¬ a < 0x70) :
    readOk p w a = true ↔ a % w.bytes = 0 ∧ ∀ k < w.bytes, (windowAt p (a + k)).isSome = true := by
  simp [readOk, regEnd, ha]

/-- What a host read's check accepts among the registers (20 R63). -/
theorem readOk_reg (p : Params) (w : Width) (a : Nat) (ha : a < 0x70) :
    readOk p w a = true ↔ w = .w32 ∧ a % 4 = 0 := by
  simp [readOk, regEnd, ha]

theorem bytes_pos (w : Width) : 0 < w.bytes := by cases w <;> decide

theorem bytes_le (w : Width) : w.bytes ≤ 4 := by cases w <;> decide

/-- Every byte of an accepted window write is writable memory below 0x010000 (20 R62, R67, R68). -/
theorem writeOk_low (p : Params) (hp : p.Legal) (w : Width) (a : Nat) (ha : ¬ a < 0x70) (h : writeOk p w a = true) :
    ∀ k < w.bytes, a + k < 0x10000 ∧ ∃ x, windowAt p (a + k) = some x ∧ x.writable = true := by
  simp only [writeOk, Bool.and_eq_true, Bool.or_eq_true, decide_eq_true_eq, regEnd, ha, false_or] at h
  obtain ⟨hr, hw⟩ := h
  obtain ⟨hal, hmap⟩ := (readOk_window p w a ha).1 hr
  cases hx : windowAt p a with
  | none => simp [hx] at hw
  | some x =>
    have hlow := (writable_iff_low p hp a x hx).1 (by simpa [hx] using hw)
    intro k hk
    have hak : a + k < 0x10000 := by cases w <;> simp only [Width.bytes] at hal hk <;> omega
    obtain ⟨y, hy⟩ := Option.isSome_iff_exists.1 (hmap k hk)
    exact ⟨hak, y, hy, (writable_iff_low p hp _ y hy).2 hak⟩

/-- A held byte stands at a mapped address. -/
theorem byteAt_mapped (s : State) (a : Nat) (b : Byte) (h : s.byteAt a = some b) : (windowAt s.params a).isSome = true := by
  unfold State.byteAt at h
  split at h <;> simp_all

/-- In PAL, STAGE and TEXT the held byte is the listed one (20 R71). -/
theorem byteAt_writable (s : State) (a : Nat) (w : Window) (h : windowAt s.params a = some w) (hw : w.writable = true) :
    s.byteAt a = s.mem.read a := by
  unfold State.byteAt
  cases w <;> simp_all [Window.writable]

/-- In GLYPH the held byte is the listed one of a valid slot (10 R48, 20 R71). -/
theorem byteAt_glyph (s : State) (a : Nat) (h : windowAt s.params a = some .glyph) :
    s.byteAt a = if s.slotValid ((a - 0x10000) / 2048) then s.mem.read a else none := by
  unfold State.byteAt; simp [h, Config.glyphBase, Config.fontBytes]

/-- In PIX the held byte is the pixel's channel (10 R49). -/
theorem byteAt_pix (s : State) (a : Nat) (h : windowAt s.params a = some .pix) :
    s.byteAt a = s.pixByte (a - 0x800000) := by
  unfold State.byteAt; simp [h, Config.pixBase]

theorem regAt_mem (a : Nat) (r : Reg) (h : regAt a = some r) : a / 4 < 28 := by
  have := (List.getElem?_eq_some_iff.1 h).1
  simpa [regMap] using this

end Sys2Proof.Machine
end

