-- ==== Sys2Proof/Laws/State.lean ====
section
/-! SUPPORT. One lemma per field per update of the state, so that no proof unfolds a record update. -/

namespace Sys2Proof.Machine

variable (s : State)

@[simp] theorem endCommand_params (op : Byte) (err : Option CmdError) (noop : Bool) : (s.endCommand op err noop).params = s.params := rfl
@[simp] theorem endCommand_pending (op : Byte) (err : Option CmdError) (noop : Bool) : (s.endCommand op err noop).pending = none := rfl
@[simp] theorem endCommand_status (op : Byte) (err : Option CmdError) (noop : Bool) : (s.endCommand op err noop).status = ⟨true, noop, err, op⟩ := rfl
@[simp] theorem endCommand_fontValid (op : Byte) (err : Option CmdError) (noop : Bool) : (s.endCommand op err noop).fontValid = s.fontValid := rfl
@[simp] theorem endCommand_fontDefault (op : Byte) (err : Option CmdError) (noop : Bool) : (s.endCommand op err noop).fontDefault = s.fontDefault := rfl
@[simp] theorem endCommand_regs (op : Byte) (err : Option CmdError) (noop : Bool) : (s.endCommand op err noop).regs = s.regs := rfl
@[simp] theorem endCommand_sampleResult (op : Byte) (err : Option CmdError) (noop : Bool) : (s.endCommand op err noop).sampleResult = s.sampleResult := rfl
@[simp] theorem endCommand_outW (op : Byte) (err : Option CmdError) (noop : Bool) : (s.endCommand op err noop).outW = s.outW := rfl
@[simp] theorem endCommand_outH (op : Byte) (err : Option CmdError) (noop : Bool) : (s.endCommand op err noop).outH = s.outH := rfl
@[simp] theorem endCommand_bufCur (op : Byte) (err : Option CmdError) (noop : Bool) : (s.endCommand op err noop).bufCur = s.bufCur := rfl
@[simp] theorem endCommand_mem (op : Byte) (err : Option CmdError) (noop : Bool) : (s.endCommand op err noop).mem = s.mem := rfl
@[simp] theorem endCommand_pix (op : Byte) (err : Option CmdError) (noop : Bool) : (s.endCommand op err noop).pix = s.pix := rfl
@[simp] theorem endCommand_surface (op : Byte) (err : Option CmdError) (noop : Bool) : (s.endCommand op err noop).surface = s.surface := rfl
@[simp] theorem endCommand_host (op : Byte) (err : Option CmdError) (noop : Bool) : (s.endCommand op err noop).host = s.host := rfl
@[simp] theorem endCommand_replies (op : Byte) (err : Option CmdError) (noop : Bool) : (s.endCommand op err noop).replies = s.replies := rfl
@[simp] theorem endCommand_sched (op : Byte) (err : Option CmdError) (noop : Bool) : (s.endCommand op err noop).sched = s.sched := rfl
@[simp] theorem endCommand_draws (op : Byte) (err : Option CmdError) (noop : Bool) : (s.endCommand op err noop).draws = s.draws + 1 := rfl

@[simp] theorem handOver_params (w : Word) : (s.handOver w).params = s.params := rfl
@[simp] theorem handOver_pending (w : Word) : (s.handOver w).pending = some w := rfl
@[simp] theorem handOver_status (w : Word) : (s.handOver w).status = { s.status with done := false } := rfl
@[simp] theorem handOver_fontValid (w : Word) : (s.handOver w).fontValid = s.fontValid := rfl
@[simp] theorem handOver_fontDefault (w : Word) : (s.handOver w).fontDefault = s.fontDefault := rfl
@[simp] theorem handOver_regs (w : Word) : (s.handOver w).regs = s.regs := rfl
@[simp] theorem handOver_sampleResult (w : Word) : (s.handOver w).sampleResult = s.sampleResult := rfl
@[simp] theorem handOver_outW (w : Word) : (s.handOver w).outW = s.outW := rfl
@[simp] theorem handOver_outH (w : Word) : (s.handOver w).outH = s.outH := rfl
@[simp] theorem handOver_bufCur (w : Word) : (s.handOver w).bufCur = s.bufCur := rfl
@[simp] theorem handOver_mem (w : Word) : (s.handOver w).mem = s.mem := rfl
@[simp] theorem handOver_pix (w : Word) : (s.handOver w).pix = s.pix := rfl
@[simp] theorem handOver_surface (w : Word) : (s.handOver w).surface = s.surface := rfl
@[simp] theorem handOver_host (w : Word) : (s.handOver w).host = s.host := rfl
@[simp] theorem handOver_replies (w : Word) : (s.handOver w).replies = s.replies := rfl
@[simp] theorem handOver_sched (w : Word) : (s.handOver w).sched = s.sched := rfl
@[simp] theorem handOver_draws (w : Word) : (s.handOver w).draws = s.draws := rfl

@[simp] theorem emit_params (e : SurfaceEvent) : (s.emit e).params = s.params := rfl
@[simp] theorem emit_pending (e : SurfaceEvent) : (s.emit e).pending = s.pending := rfl
@[simp] theorem emit_status (e : SurfaceEvent) : (s.emit e).status = s.status := rfl
@[simp] theorem emit_fontValid (e : SurfaceEvent) : (s.emit e).fontValid = s.fontValid := rfl
@[simp] theorem emit_fontDefault (e : SurfaceEvent) : (s.emit e).fontDefault = s.fontDefault := rfl
@[simp] theorem emit_regs (e : SurfaceEvent) : (s.emit e).regs = s.regs := rfl
@[simp] theorem emit_sampleResult (e : SurfaceEvent) : (s.emit e).sampleResult = s.sampleResult := rfl
@[simp] theorem emit_outW (e : SurfaceEvent) : (s.emit e).outW = s.outW := rfl
@[simp] theorem emit_outH (e : SurfaceEvent) : (s.emit e).outH = s.outH := rfl
@[simp] theorem emit_bufCur (e : SurfaceEvent) : (s.emit e).bufCur = s.bufCur := rfl
@[simp] theorem emit_mem (e : SurfaceEvent) : (s.emit e).mem = s.mem := rfl
@[simp] theorem emit_pix (e : SurfaceEvent) : (s.emit e).pix = s.pix := rfl
@[simp] theorem emit_surface (e : SurfaceEvent) : (s.emit e).surface = s.surface ++ [e] := rfl
@[simp] theorem emit_host (e : SurfaceEvent) : (s.emit e).host = s.host := rfl
@[simp] theorem emit_replies (e : SurfaceEvent) : (s.emit e).replies = s.replies := rfl
@[simp] theorem emit_sched (e : SurfaceEvent) : (s.emit e).sched = s.sched := rfl
@[simp] theorem emit_draws (e : SurfaceEvent) : (s.emit e).draws = s.draws := rfl

@[simp] theorem setOutSize_params (w h : Nat) : (s.setOutSize w h).params = s.params := rfl
@[simp] theorem setOutSize_pending (w h : Nat) : (s.setOutSize w h).pending = s.pending := rfl
@[simp] theorem setOutSize_status (w h : Nat) : (s.setOutSize w h).status = s.status := rfl
@[simp] theorem setOutSize_fontValid (w h : Nat) : (s.setOutSize w h).fontValid = s.fontValid := rfl
@[simp] theorem setOutSize_fontDefault (w h : Nat) : (s.setOutSize w h).fontDefault = s.fontDefault := rfl
@[simp] theorem setOutSize_regs (w h : Nat) : (s.setOutSize w h).regs = s.regs := rfl
@[simp] theorem setOutSize_sampleResult (w h : Nat) : (s.setOutSize w h).sampleResult = s.sampleResult := rfl
@[simp] theorem setOutSize_outW (w h : Nat) : (s.setOutSize w h).outW = BitVec.ofNat 32 w := rfl
@[simp] theorem setOutSize_outH (w h : Nat) : (s.setOutSize w h).outH = BitVec.ofNat 32 h := rfl
@[simp] theorem setOutSize_bufCur (w h : Nat) : (s.setOutSize w h).bufCur = s.bufCur := rfl
@[simp] theorem setOutSize_mem (w h : Nat) : (s.setOutSize w h).mem = s.mem := rfl
@[simp] theorem setOutSize_pix (w h : Nat) : (s.setOutSize w h).pix = s.pix := rfl
@[simp] theorem setOutSize_surface (w h : Nat) : (s.setOutSize w h).surface = s.surface := rfl
@[simp] theorem setOutSize_host (w h : Nat) : (s.setOutSize w h).host = s.host := rfl
@[simp] theorem setOutSize_replies (w h : Nat) : (s.setOutSize w h).replies = s.replies := rfl
@[simp] theorem setOutSize_sched (w h : Nat) : (s.setOutSize w h).sched = s.sched := rfl
@[simp] theorem setOutSize_draws (w h : Nat) : (s.setOutSize w h).draws = s.draws := rfl

@[simp] theorem setBuffer_params (w h : Nat) (l : List Color) : (s.setBuffer w h l).params = s.params := rfl
@[simp] theorem setBuffer_pending (w h : Nat) (l : List Color) : (s.setBuffer w h l).pending = s.pending := rfl
@[simp] theorem setBuffer_status (w h : Nat) (l : List Color) : (s.setBuffer w h l).status = s.status := rfl
@[simp] theorem setBuffer_fontValid (w h : Nat) (l : List Color) : (s.setBuffer w h l).fontValid = s.fontValid := rfl
@[simp] theorem setBuffer_fontDefault (w h : Nat) (l : List Color) : (s.setBuffer w h l).fontDefault = s.fontDefault := rfl
@[simp] theorem setBuffer_regs (w h : Nat) (l : List Color) : (s.setBuffer w h l).regs = s.regs := rfl
@[simp] theorem setBuffer_sampleResult (w h : Nat) (l : List Color) : (s.setBuffer w h l).sampleResult = s.sampleResult := rfl
@[simp] theorem setBuffer_outW (w h : Nat) (l : List Color) : (s.setBuffer w h l).outW = s.outW := rfl
@[simp] theorem setBuffer_outH (w h : Nat) (l : List Color) : (s.setBuffer w h l).outH = s.outH := rfl
@[simp] theorem setBuffer_bufCur (w h : Nat) (l : List Color) : (s.setBuffer w h l).bufCur = pairWord w h := rfl
@[simp] theorem setBuffer_mem (w h : Nat) (l : List Color) : (s.setBuffer w h l).mem = s.mem := rfl
@[simp] theorem setBuffer_pix (w h : Nat) (l : List Color) : (s.setBuffer w h l).pix = l := rfl
@[simp] theorem setBuffer_surface (w h : Nat) (l : List Color) : (s.setBuffer w h l).surface = s.surface := rfl
@[simp] theorem setBuffer_host (w h : Nat) (l : List Color) : (s.setBuffer w h l).host = s.host := rfl
@[simp] theorem setBuffer_replies (w h : Nat) (l : List Color) : (s.setBuffer w h l).replies = s.replies := rfl
@[simp] theorem setBuffer_sched (w h : Nat) (l : List Color) : (s.setBuffer w h l).sched = s.sched := rfl
@[simp] theorem setBuffer_draws (w h : Nat) (l : List Color) : (s.setBuffer w h l).draws = s.draws := rfl

@[simp] theorem setSample_params (w : Word) : (s.setSample w).params = s.params := rfl
@[simp] theorem setSample_pending (w : Word) : (s.setSample w).pending = s.pending := rfl
@[simp] theorem setSample_status (w : Word) : (s.setSample w).status = s.status := rfl
@[simp] theorem setSample_fontValid (w : Word) : (s.setSample w).fontValid = s.fontValid := rfl
@[simp] theorem setSample_fontDefault (w : Word) : (s.setSample w).fontDefault = s.fontDefault := rfl
@[simp] theorem setSample_regs (w : Word) : (s.setSample w).regs = s.regs := rfl
@[simp] theorem setSample_sampleResult (w : Word) : (s.setSample w).sampleResult = w := rfl
@[simp] theorem setSample_outW (w : Word) : (s.setSample w).outW = s.outW := rfl
@[simp] theorem setSample_outH (w : Word) : (s.setSample w).outH = s.outH := rfl
@[simp] theorem setSample_bufCur (w : Word) : (s.setSample w).bufCur = s.bufCur := rfl
@[simp] theorem setSample_mem (w : Word) : (s.setSample w).mem = s.mem := rfl
@[simp] theorem setSample_pix (w : Word) : (s.setSample w).pix = s.pix := rfl
@[simp] theorem setSample_surface (w : Word) : (s.setSample w).surface = s.surface := rfl
@[simp] theorem setSample_host (w : Word) : (s.setSample w).host = s.host := rfl
@[simp] theorem setSample_replies (w : Word) : (s.setSample w).replies = s.replies := rfl
@[simp] theorem setSample_sched (w : Word) : (s.setSample w).sched = s.sched := rfl
@[simp] theorem setSample_draws (w : Word) : (s.setSample w).draws = s.draws := rfl

@[simp] theorem commitFont_params (slot : Nat) (bs : List Byte) : (s.commitFont slot bs).params = s.params := rfl
@[simp] theorem commitFont_pending (slot : Nat) (bs : List Byte) : (s.commitFont slot bs).pending = s.pending := rfl
@[simp] theorem commitFont_status (slot : Nat) (bs : List Byte) : (s.commitFont slot bs).status = s.status := rfl
@[simp] theorem commitFont_fontValid (slot : Nat) (bs : List Byte) : (s.commitFont slot bs).fontValid = s.fontValid ||| BitVec.ofNat 32 (2 ^ slot) := rfl
@[simp] theorem commitFont_fontDefault (slot : Nat) (bs : List Byte) : (s.commitFont slot bs).fontDefault = s.fontDefault.or (some (BitVec.ofNat 8 slot)) := rfl
@[simp] theorem commitFont_regs (slot : Nat) (bs : List Byte) : (s.commitFont slot bs).regs = s.regs := rfl
@[simp] theorem commitFont_sampleResult (slot : Nat) (bs : List Byte) : (s.commitFont slot bs).sampleResult = s.sampleResult := rfl
@[simp] theorem commitFont_outW (slot : Nat) (bs : List Byte) : (s.commitFont slot bs).outW = s.outW := rfl
@[simp] theorem commitFont_outH (slot : Nat) (bs : List Byte) : (s.commitFont slot bs).outH = s.outH := rfl
@[simp] theorem commitFont_bufCur (slot : Nat) (bs : List Byte) : (s.commitFont slot bs).bufCur = s.bufCur := rfl
@[simp] theorem commitFont_mem (slot : Nat) (bs : List Byte) : (s.commitFont slot bs).mem = s.mem.fill (glyphAddr slot) bs := rfl
@[simp] theorem commitFont_pix (slot : Nat) (bs : List Byte) : (s.commitFont slot bs).pix = s.pix := rfl
@[simp] theorem commitFont_surface (slot : Nat) (bs : List Byte) : (s.commitFont slot bs).surface = s.surface := rfl
@[simp] theorem commitFont_host (slot : Nat) (bs : List Byte) : (s.commitFont slot bs).host = s.host := rfl
@[simp] theorem commitFont_replies (slot : Nat) (bs : List Byte) : (s.commitFont slot bs).replies = s.replies := rfl
@[simp] theorem commitFont_sched (slot : Nat) (bs : List Byte) : (s.commitFont slot bs).sched = s.sched := rfl
@[simp] theorem commitFont_draws (slot : Nat) (bs : List Byte) : (s.commitFont slot bs).draws = s.draws := rfl

@[simp] theorem answer_params (r : Reply) : (s.answer r).params = s.params := rfl
@[simp] theorem answer_pending (r : Reply) : (s.answer r).pending = s.pending := rfl
@[simp] theorem answer_status (r : Reply) : (s.answer r).status = s.status := rfl
@[simp] theorem answer_fontValid (r : Reply) : (s.answer r).fontValid = s.fontValid := rfl
@[simp] theorem answer_fontDefault (r : Reply) : (s.answer r).fontDefault = s.fontDefault := rfl
@[simp] theorem answer_regs (r : Reply) : (s.answer r).regs = s.regs := rfl
@[simp] theorem answer_sampleResult (r : Reply) : (s.answer r).sampleResult = s.sampleResult := rfl
@[simp] theorem answer_outW (r : Reply) : (s.answer r).outW = s.outW := rfl
@[simp] theorem answer_outH (r : Reply) : (s.answer r).outH = s.outH := rfl
@[simp] theorem answer_bufCur (r : Reply) : (s.answer r).bufCur = s.bufCur := rfl
@[simp] theorem answer_mem (r : Reply) : (s.answer r).mem = s.mem := rfl
@[simp] theorem answer_pix (r : Reply) : (s.answer r).pix = s.pix := rfl
@[simp] theorem answer_surface (r : Reply) : (s.answer r).surface = s.surface := rfl
@[simp] theorem answer_host (r : Reply) : (s.answer r).host = s.host := rfl
@[simp] theorem answer_replies (r : Reply) : (s.answer r).replies = s.replies ++ [r] := rfl
@[simp] theorem answer_sched (r : Reply) : (s.answer r).sched = s.sched := rfl
@[simp] theorem answer_draws (r : Reply) : (s.answer r).draws = s.draws + 1 := rfl

@[simp] theorem poll_params : (s.poll).params = s.params := rfl
@[simp] theorem poll_pending : (s.poll).pending = s.pending := rfl
@[simp] theorem poll_status : (s.poll).status = s.status := rfl
@[simp] theorem poll_fontValid : (s.poll).fontValid = s.fontValid := rfl
@[simp] theorem poll_fontDefault : (s.poll).fontDefault = s.fontDefault := rfl
@[simp] theorem poll_regs : (s.poll).regs = s.regs := rfl
@[simp] theorem poll_sampleResult : (s.poll).sampleResult = s.sampleResult := rfl
@[simp] theorem poll_outW : (s.poll).outW = s.outW := rfl
@[simp] theorem poll_outH : (s.poll).outH = s.outH := rfl
@[simp] theorem poll_bufCur : (s.poll).bufCur = s.bufCur := rfl
@[simp] theorem poll_mem : (s.poll).mem = s.mem := rfl
@[simp] theorem poll_pix : (s.poll).pix = s.pix := rfl
@[simp] theorem poll_surface : (s.poll).surface = s.surface := rfl
@[simp] theorem poll_host : (s.poll).host = s.host := rfl
@[simp] theorem poll_replies : (s.poll).replies = s.replies ++ [.polled s.statusWord] := rfl
@[simp] theorem poll_sched : (s.poll).sched = s.sched := rfl
@[simp] theorem poll_draws : (s.poll).draws = s.draws := rfl

@[simp] theorem endCommand_busy (op : Byte) (err : Option CmdError) (noop : Bool) : (s.endCommand op err noop).busy = false := rfl
@[simp] theorem poll_busy : s.poll.busy = s.busy := rfl
@[simp] theorem handOver_busy (w : Word) : (s.handOver w).busy = true := rfl

/-! A write to a register touches PENDING and DONE (CMD) or the read-write registers, and nothing else. -/

@[simp] theorem writeReg_params (r : Reg) (v : Word) : (s.writeReg r v).params = s.params := by
  unfold State.writeReg; split <;> rfl
@[simp] theorem writeReg_fontValid (r : Reg) (v : Word) : (s.writeReg r v).fontValid = s.fontValid := by
  unfold State.writeReg; split <;> rfl
@[simp] theorem writeReg_fontDefault (r : Reg) (v : Word) : (s.writeReg r v).fontDefault = s.fontDefault := by
  unfold State.writeReg; split <;> rfl
@[simp] theorem writeReg_sampleResult (r : Reg) (v : Word) : (s.writeReg r v).sampleResult = s.sampleResult := by
  unfold State.writeReg; split <;> rfl
@[simp] theorem writeReg_outW (r : Reg) (v : Word) : (s.writeReg r v).outW = s.outW := by
  unfold State.writeReg; split <;> rfl
@[simp] theorem writeReg_outH (r : Reg) (v : Word) : (s.writeReg r v).outH = s.outH := by
  unfold State.writeReg; split <;> rfl
@[simp] theorem writeReg_bufCur (r : Reg) (v : Word) : (s.writeReg r v).bufCur = s.bufCur := by
  unfold State.writeReg; split <;> rfl
@[simp] theorem writeReg_mem (r : Reg) (v : Word) : (s.writeReg r v).mem = s.mem := by
  unfold State.writeReg; split <;> rfl
@[simp] theorem writeReg_pix (r : Reg) (v : Word) : (s.writeReg r v).pix = s.pix := by
  unfold State.writeReg; split <;> rfl
@[simp] theorem writeReg_surface (r : Reg) (v : Word) : (s.writeReg r v).surface = s.surface := by
  unfold State.writeReg; split <;> rfl
@[simp] theorem writeReg_host (r : Reg) (v : Word) : (s.writeReg r v).host = s.host := by
  unfold State.writeReg; split <;> rfl
@[simp] theorem writeReg_replies (r : Reg) (v : Word) : (s.writeReg r v).replies = s.replies := by
  unfold State.writeReg; split <;> rfl
@[simp] theorem writeReg_sched (r : Reg) (v : Word) : (s.writeReg r v).sched = s.sched := by
  unfold State.writeReg; split <;> rfl
@[simp] theorem writeReg_draws (r : Reg) (v : Word) : (s.writeReg r v).draws = s.draws := by
  unfold State.writeReg; split <;> rfl

theorem writeReg_cmd (v : Word) : s.writeReg .cmd v = s.handOver v := by simp [State.writeReg]

theorem writeReg_other (r : Reg) (v : Word) (h : r ≠ .cmd) : s.writeReg r v = { s with regs := s.regs.store r v } := by
  simp [State.writeReg, h]

/-! The reset input. -/

@[simp] theorem resetNow_params : s.resetNow.params = s.params := rfl
@[simp] theorem resetNow_pending : s.resetNow.pending = none := rfl
@[simp] theorem resetNow_status : s.resetNow.status = Status.reset := rfl
@[simp] theorem resetNow_fontValid : s.resetNow.fontValid = 0 := rfl
@[simp] theorem resetNow_fontDefault : s.resetNow.fontDefault = none := rfl
@[simp] theorem resetNow_regs : s.resetNow.regs = Regs.reset := rfl
@[simp] theorem resetNow_sampleResult : s.resetNow.sampleResult = 0 := rfl
@[simp] theorem resetNow_outW : s.resetNow.outW = 0 := rfl
@[simp] theorem resetNow_outH : s.resetNow.outH = 0 := rfl
@[simp] theorem resetNow_bufCur : s.resetNow.bufCur = 0 := rfl
@[simp] theorem resetNow_mem : s.resetNow.mem = [] := rfl
@[simp] theorem resetNow_pix : s.resetNow.pix = [] := rfl
@[simp] theorem resetNow_surface : s.resetNow.surface = s.abandonedLog := rfl
@[simp] theorem resetNow_host : s.resetNow.host = s.host := rfl
@[simp] theorem resetNow_replies : s.resetNow.replies = s.replies := rfl
@[simp] theorem resetNow_sched : s.resetNow.sched = s.sched := rfl
@[simp] theorem resetNow_draws : s.resetNow.draws = s.draws + 1 := rfl

end Sys2Proof.Machine
end

