-- ==== Sys2Proof/Laws/Ops.lean ====
section
/-! SUPPORT. What each shared operation can do, said once: the end of a command, the commands' results, the font lookup, the
register store, the host's access, and a step. -/

namespace Sys2Proof.Machine

/-! ### The end of a command -/

/-- The state a command's own writes are made on: its result, or, for an error, the state it was handed over in. -/
def CmdResult.base (s : State) : CmdResult → State
  | .ok t => t
  | .noop t => t
  | .raise _ => s

/-- The error a command raises. -/
def CmdResult.error : CmdResult → Option CmdError
  | .ok _ => none
  | .noop _ => none
  | .raise e => some e

/-- The command was a no-op DRAW or PRESENT. -/
def CmdResult.isNoop : CmdResult → Bool
  | .ok _ => false
  | .noop _ => true
  | .raise _ => false

/-- `finish` is the end-of-command write of 60 R201 over the command's own writes. -/
theorem finish_eq (op : Byte) (s : State) (r : CmdResult) :
    finish op s r = (r.base s).endCommand op r.error r.isNoop := by cases r <;> rfl

@[simp] theorem finish_ok (op : Byte) (s t : State) : finish op s (.ok t) = t.endCommand op none false := rfl
@[simp] theorem finish_noop (op : Byte) (s t : State) : finish op s (.noop t) = t.endCommand op none true := rfl
@[simp] theorem finish_raise (op : Byte) (s : State) (e : CmdError) :
    finish op s (.raise e) = s.endCommand op (some e) false := rfl

/-- The result of a command's own rule. -/
def resultOf (i : Instr) (s : State) : CmdResult :=
  match i with
  | .nop => .ok s
  | .fontLoad slot => fontLoadResult slot s
  | .measure => measureResult s
  | .draw => drawResult s
  | .sample scanline => sampleCmdResult scanline s
  | .bufInit => bufInitResult s
  | .blit char csel => blitResult char csel s
  | .present => presentResult s
  | .clear => .ok (s.emit (.clear s.regs.clearX s.regs.clearY s.regs.clearW s.regs.clearH))

/-- Every command ends in a next state: its result, finished (70 R222). -/
theorem exec_eq_finish (i : Instr) (s : State) :
    exec i s = .next (finish (BitVec.ofNat 8 i.opcode) s (resultOf i s)) := by cases i <;> rfl

/-! ### The results of the commands -/

/-- FONT_LOAD raises an error, or commits the table in STAGE to an existing slot. -/
theorem fontLoadResult_cases (slot : Nat) (s : State) :
    (∃ e, fontLoadResult slot s = .raise e) ∨
    (slot < s.params.fontSlots ∧ s.headerOk = true ∧ 2056 ≤ s.regs.fontLenBytes ∧ s.regs.fontLenBytes ≤ 4096 ∧
      fontLoadResult slot s = .ok (s.commitFont slot s.stageTable)) := by
  by_cases h1 : s.params.fontSlots ≤ slot
  · exact .inl ⟨.illegalCommand, by simp [fontLoadResult, h1]⟩
  by_cases h2 : 4096 < s.regs.fontLenBytes
  · exact .inl ⟨.param, by simp [fontLoadResult, h1, h2]⟩
  by_cases h3 : s.regs.fontLenBytes < 8
  · exact .inl ⟨.invalidFormat, by simp [fontLoadResult, h1, h2, h3]⟩
  by_cases h4 : s.headerOk = true
  · by_cases h5 : s.regs.fontLenBytes < 2056
    · exact .inl ⟨.truncated, by simp [fontLoadResult, h1, h2, h3, h4, h5]⟩
    · exact .inr ⟨by omega, h4, by omega, by omega, by simp [fontLoadResult, h1, h2, h3, h4, h5]⟩
  · exact .inl ⟨.invalidFormat, by simp [fontLoadResult, h1, h2, h3, h4]⟩

/-- DRAW raises an error, is the no-op, or paints a buffer within the limits and puts it. -/
theorem drawResult_cases (s : State) :
    (∃ e, drawResult s = .raise e) ∨
    (drawResult s = .noop (s.setOutSize (s.regs.effective.width s.regs.textChars) s.regs.effective.height)) ∨
    (∃ f, s.resolveFont = some f ∧
      (0 < s.regs.effective.width s.regs.textChars ∧ s.regs.effective.width s.regs.textChars ≤ s.params.maxW) ∧
      (0 < s.regs.effective.height ∧ s.regs.effective.height ≤ s.params.maxH) ∧
      drawResult s = .ok (((s.setOutSize (s.regs.effective.width s.regs.textChars) s.regs.effective.height).setBuffer
        (s.regs.effective.width s.regs.textChars) s.regs.effective.height (s.drawn f).pixels).put (s.drawn f))) := by
  cases hf : s.resolveFont with
  | none => exact .inl ⟨.fontNotFound, by simp [drawResult, hf]⟩
  | some f =>
    by_cases h1 : s.params.maxText < s.regs.textChars
    · exact .inl ⟨.param, by simp [drawResult, hf, h1]⟩
    by_cases h2 : s.regs.gradEn = true ∧ s.paletteTooLong = true
    · exact .inl ⟨.param, by simp [drawResult, hf, h1, h2]⟩
    by_cases h3 : s.regs.effective.width s.regs.textChars = 0 ∨ s.regs.effective.height = 0
    · exact .inr (.inl (by simp [drawResult, hf, h1, h2, h3]))
    by_cases h4 : s.params.maxW < s.regs.effective.width s.regs.textChars ∨ s.params.maxH < s.regs.effective.height
    · exact .inl ⟨.tooLarge, by simp [drawResult, hf, h1, h2, h3, h4]⟩
    exact .inr (.inr ⟨f, rfl, by omega, by omega, by simp [drawResult, hf, h1, h2, h3, h4]⟩)

/-- BLIT raises an error, or writes the pixels of the buffer and nothing else. -/
theorem blitResult_cases (char : Nat) (csel : Csel) (s : State) :
    (∃ e, blitResult char csel s = .raise e) ∨
    (∃ f, s.resolveFont = some f ∧ blitResult char csel s = .ok { s with
      pix := (blit (s.glyphRow f char) s.regs.originX s.regs.originY s.regs.scaleX s.regs.scaleY
        (s.blitSource csel) s.raster).pixels }) := by
  cases hf : s.resolveFont with
  | none => exact .inl ⟨.fontNotFound, by simp [blitResult, hf]⟩
  | some f =>
    by_cases h : csel = .grad ∧ s.paletteTooLong = true
    · exact .inl ⟨.param, by simp [blitResult, hf, h]⟩
    · exact .inr ⟨f, rfl, by simp [blitResult, hf, h]⟩

/-- The slot `resolve_font` gives is the selected one, tested, or the default one (40 R104). -/
theorem resolveFont_cases (s : State) (f : Nat) (h : s.resolveFont = some f) :
    s.slotValid f = true ∨ ∃ d, s.fontDefault = some d ∧ f = d.toNat := by
  unfold State.resolveFont at h
  split at h
  · rename_i hc
    obtain rfl : s.regs.selSlot = f := by simpa using h
    simp only [Bool.and_eq_true] at hc
    exact .inl hc.2
  · right
    cases hd : s.fontDefault with
    | none => simp [hd] at h
    | some d => exact ⟨d, rfl, by simpa [hd] using h.symm⟩

theorem stageTable_length (s : State) : s.stageTable.length = 2048 := by simp [State.stageTable]

/-! ### A step -/

/-- An engine step ends in the finished result of one command, or of an illegal word (30 R83). -/
theorem perform_cases (w : Word) (s : State) :
    (∃ i, decode w = .ok i ∧ perform w s = .next (finish (BitVec.ofNat 8 i.opcode) s (resultOf i s))) ∨
    ((∃ e, decode w = .error e) ∧ perform w s = .next (finish (opField w) s (.raise .illegalCommand))) := by
  unfold perform
  split
  · rename_i i h; exact .inl ⟨i, h, exec_eq_finish i s⟩
  · rename_i e h; exact .inr ⟨⟨e, h⟩, rfl⟩

/-- What the host's turn can do. -/
theorem hostTurn_cases (s t : State) (h : hostTurn s = .next t) :
    (s.host = [] ∧ t = s) ∨
    (∃ w a rest, s.host = .read w a :: rest ∧ t = { s with host := rest }.answer (s.busRead w a.toNat)) ∨
    (∃ w a v rest, s.host = .write w a v :: rest ∧ s.busy = false ∧
      t = ({ s with host := rest }.busWrite w a.toNat v).1.answer ({ s with host := rest }.busWrite w a.toNat v).2) ∨
    (∃ rest, s.host = .wait :: rest ∧ s.busy = true ∧ t = s.poll) ∨
    (∃ rest, s.host = .wait :: rest ∧ s.busy = false ∧ t = { s.poll with host := rest }) ∨
    (∃ rest, s.host = .reset :: rest ∧ t = { s with host := rest }.resetNow) := by
  unfold hostTurn at h
  split at h
  · rename_i hh; cases h; exact .inl ⟨hh, rfl⟩
  · rename_i w a rest hh; cases h; exact .inr (.inl ⟨w, a, rest, hh, rfl⟩)
  · rename_i w a v rest hh
    split at h
    · cases h
    · rename_i hb; cases h
      exact .inr (.inr (.inl ⟨w, a, v, rest, hh, by simpa using hb, rfl⟩))
  · rename_i rest hh
    cases hb : s.busy with
    | true => simp only [hb, if_true] at h; cases h; exact .inr (.inr (.inr (.inl ⟨rest, hh, rfl, rfl⟩)))
    | false =>
      simp only [hb, Bool.false_eq_true, if_false] at h; cases h
      exact .inr (.inr (.inr (.inr (.inl ⟨rest, hh, rfl, rfl⟩))))
  · rename_i rest hh; cases h; exact .inr (.inr (.inr (.inr (.inr ⟨rest, hh, rfl⟩))))

/-- What a host write can do to the state: hand over a command, store a register, write the bytes of a writable window, or
nothing (20 R64, R68). -/
theorem busWrite_cases (s : State) (w : Width) (a : Nat) (v : Word) :
    ((s.busWrite w a v).1 = s) ∨
    (∃ r, writeOk s.params w a = true ∧ regAt a = some r ∧ (s.busWrite w a v).1 = s.writeReg r v) ∨
    (writeOk s.params w a = true ∧ ¬ a < regEnd ∧
      (s.busWrite w a v).1 = { s with mem := s.mem.writeBytes a v w.bytes }) := by
  unfold State.busWrite
  split
  · rename_i hok
    split
    · split
      · rename_i r hr; exact .inr (.inl ⟨r, hok, hr, rfl⟩)
      · exact .inl rfl
    · rename_i ha; exact .inr (.inr ⟨hok, ha, rfl⟩)
  · exact .inl rfl

/-- Whose turn a step is: the engine's or the host's, on the state with its entry of `sched` taken (log 4). -/
theorem step_turn (s : State) :
    ∃ rest, (step s = engineTurn { s with sched := rest }) ∨ (step s = hostTurn { s with sched := rest }) := by
  unfold step takeTurn
  split
  · rename_i rest _; exact ⟨rest, .inl rfl⟩
  · rename_i rest _; exact ⟨rest, .inr rfl⟩
  · rename_i h
    refine ⟨[], ?_⟩
    have : { s with sched := [] } = s := by cases s; simp_all
    rw [this]
    split
    · exact .inl rfl
    · exact .inr rfl

end Sys2Proof.Machine
end

