-- ==== Sys2Proof/Laws/PerInstr.lean ====
section
/-! SUPPORT. One lemma per command: the fields of its word (30 R81, R84, R88). -/

namespace Sys2Proof.Laws.CommandWord

/-- The word of a well-formed command has the command's OP in bits [31:24] and its operand bits below (30 R80, R88). -/
def Statement (i : Instr) : Prop :=
  i.WellFormed → field (encode i) 24 8 = i.opcode ∧ field (encode i) 0 24 = i.operandBits

theorem nop : Statement .nop := fun _ => by decide

theorem fontLoad (slot : Nat) : Statement (.fontLoad slot) := fun h => by
  have h : slot < 256 := by simpa [Instr.WellFormed, Instr.wellFormed] using h
  simp only [encode, field, Instr.opcode, Instr.operandBits, BitVec.toNat_ofNat]; omega

theorem measure : Statement .measure := fun _ => by decide

theorem draw : Statement .draw := fun _ => by decide

theorem sample (scanline : Nat) : Statement (.sample scanline) := fun h => by
  have h : scanline < 65536 := by simpa [Instr.WellFormed, Instr.wellFormed] using h
  simp only [encode, field, Instr.opcode, Instr.operandBits, BitVec.toNat_ofNat]; omega

theorem bufInit : Statement .bufInit := fun _ => by decide

theorem blit (char : Nat) (csel : Csel) : Statement (.blit char csel) := fun h => by
  have h : char < 256 := by simpa [Instr.WellFormed, Instr.wellFormed] using h
  cases csel <;> simp only [encode, field, Instr.opcode, Instr.operandBits, Csel.code, BitVec.toNat_ofNat] <;> omega

theorem present : Statement .present := fun _ => by decide

theorem clear : Statement .clear := fun _ => by decide

end Sys2Proof.Laws.CommandWord
end

