-- ==== Sys2Proof/Laws/Raster.lean ====
section
/-! SUPPORT. The pixel buffer: no drawing changes its shape, and what one pixel write does. -/

namespace Sys2Proof.Machine

/-- The buffer holds w × h pixels. -/
abbrev Raster.Ok (r : Raster) : Prop := r.pixels.length = r.w * r.h

/-- Two buffers of one shape. -/
abbrev Raster.SameShape (r q : Raster) : Prop := q.w = r.w ∧ q.h = r.h ∧ q.pixels.length = r.pixels.length

theorem filled_ok (w h : Nat) (k : Color) : (Raster.filled w h k).Ok := by simp [Raster.filled, Raster.Ok]

theorem plot_shape (src : Source) (r : Raster) (p : Int × Int) : r.SameShape (r.plot src p) := by
  unfold Raster.plot; split <;> simp [Raster.SameShape]

/-- A fold of operations that keep the shape keeps the shape. -/
theorem foldl_shape {α : Type} (f : Raster → α → Raster) (hf : ∀ (r : Raster) x, r.SameShape (f r x)) (l : List α) (r : Raster) :
    r.SameShape (l.foldl f r) := by
  induction l generalizing r with
  | nil => simp [Raster.SameShape]
  | cons x l ih =>
    have h1 := hf r x
    have h2 := ih (f r x)
    exact ⟨h2.1.trans h1.1, h2.2.1.trans h1.2.1, h2.2.2.trans h1.2.2⟩

theorem blit_shape (glyph : Nat → Byte) (ox oy : Int) (sx sy : Nat) (src : Source) (r : Raster) :
    r.SameShape (blit glyph ox oy sx sy src r) := foldl_shape _ (plot_shape src) _ r

theorem outlineLayer_shape (p : Paint) (glyph : Nat → Byte) (k : Nat) (r : Raster) :
    r.SameShape (outlineLayer p glyph k r) := by
  unfold outlineLayer; split
  · simp [Raster.SameShape]
  · exact foldl_shape _ (fun r o => blit_shape _ _ _ _ _ _ r) _ r

theorem shadowLayer_shape (p : Paint) (glyph : Nat → Byte) (k : Nat) (r : Raster) :
    r.SameShape (shadowLayer p glyph k r) := by
  unfold shadowLayer; split
  · simp [Raster.SameShape]
  · exact blit_shape _ _ _ _ _ _ r

theorem composite_shape (p : Paint) (glyph : Nat → Byte) (k : Nat) (r : Raster) :
    r.SameShape (composite p glyph k r) := by
  have h1 := outlineLayer_shape p glyph k r
  have h2 := shadowLayer_shape p glyph k (outlineLayer p glyph k r)
  have h3 := blit_shape glyph (p.eff.baseX k + (0 : Int) * p.eff.sx) (p.eff.baseY + (0 : Int) * p.eff.sy) p.eff.sx p.eff.sy
    p.fg (shadowLayer p glyph k (outlineLayer p glyph k r))
  exact ⟨h3.1.trans (h2.1.trans h1.1), h3.2.1.trans (h2.2.1.trans h1.2.1), h3.2.2.trans (h2.2.2.trans h1.2.2)⟩

theorem compositeText_shape (p : Paint) (glyph : Nat → Nat → Byte) (len : Nat) (r : Raster) :
    r.SameShape (compositeText p glyph len r) := foldl_shape _ (fun r k => composite_shape p (glyph k) k r) _ r

/-- The finished buffer of a DRAW has the size of 43 R162. -/
theorem drawn_shape (s : State) (f : Nat) :
    (s.drawn f).w = s.regs.effective.width s.regs.textChars ∧ (s.drawn f).h = s.regs.effective.height ∧
      (s.drawn f).Ok := by
  obtain ⟨h1, h2, h3⟩ := compositeText_shape (s.paint s.regs.effective.height)
    (fun k => s.glyphRow f (s.textChar k)) s.regs.textChars
    (Raster.filled (s.regs.effective.width s.regs.textChars) s.regs.effective.height s.regs.fillColor)
  refine ⟨h1, h2, ?_⟩
  have h4 := filled_ok (s.regs.effective.width s.regs.textChars) s.regs.effective.height s.regs.fillColor
  unfold Raster.Ok at h4 ⊢
  unfold State.drawn
  simp only [h1, h2, h3, h4]

/-- An index in the buffer names one pixel (10 R49). -/
theorem pixel_index_inj (w x y x' y' : Nat) (hx : x < w) (hx' : x' < w) (h : y * w + x = y' * w + x') :
    x = x' ∧ y = y' := by
  have h1 : (y * w + x) % w = (y' * w + x') % w := by rw [h]
  have h2 : (y * w + x) / w = (y' * w + x') / w := by rw [h]
  simp only [Nat.mul_add_mod_self_right, Nat.mod_eq_of_lt hx, Nat.mod_eq_of_lt hx'] at h1
  rw [Nat.mul_comm y, Nat.mul_comm y', Nat.mul_add_div (by omega), Nat.mul_add_div (by omega), Nat.div_eq_of_lt hx,
    Nat.div_eq_of_lt hx'] at h2
  exact ⟨h1, by omega⟩

theorem pixel_index_lt (w h x y : Nat) (hx : x < w) (hy : y < h) : y * w + x < w * h := by
  have h1 : (y + 1) * w ≤ h * w := Nat.mul_le_mul_right w hy
  have h2 : (y + 1) * w = y * w + w := by ring
  have h3 : h * w = w * h := Nat.mul_comm h w
  omega

/-- One pixel write sets its own pixel to the source's colour at that row, and no other pixel (42 R143, R144). -/
theorem pixel_plot (src : Source) (r : Raster) (hr : r.Ok) (p : Int × Int) (x y : Nat) (hx : x < r.w) (hy : y < r.h) :
    (r.plot src p).pixel x y = if p.1 = x ∧ p.2 = y then some (src.colourAt y) else r.pixel x y := by
  have hlen := pixel_index_lt r.w r.h x y hx hy
  by_cases hin : r.inside p.1 p.2
  · have hb : (0 ≤ p.1 ∧ p.1 < r.w) ∧ 0 ≤ p.2 ∧ p.2 < r.h := by
      simp only [Raster.inside, Bool.and_eq_true, decide_eq_true_eq] at hin; omega
    simp only [Raster.plot, hin, if_true, Raster.pixel, hx, hy, and_self]
    by_cases he : p.1 = x ∧ p.2 = y
    · have e1 : p.1.toNat = x := by omega
      have e2 : p.2.toNat = y := by omega
      rw [if_pos he, e1, e2, List.getElem?_set_self (by rw [hr]; exact hlen)]
    · rw [if_neg he, List.getElem?_set_ne]
      intro h
      have := pixel_index_inj r.w p.1.toNat p.2.toNat x y (by omega) hx h
      omega
  · have he : ¬ (p.1 = x ∧ p.2 = y) := by
      intro he
      apply hin
      simp only [Raster.inside, Bool.and_eq_true, decide_eq_true_eq]; omega
    simp only [Raster.plot, hin, Bool.false_eq_true, if_false, he]

/-- Pixels are equal at every place exactly when the buffers are (10 R49). -/
theorem pixel_filled (w h : Nat) (k : Color) (x y : Nat) (hx : x < w) (hy : y < h) :
    (Raster.filled w h k).pixel x y = some k := by
  have := pixel_index_lt w h x y hx hy
  simp [Raster.pixel, Raster.filled, hx, hy, this]

end Sys2Proof.Machine
end

