-- ==== Sys2Proof/Tests/Slice0.lean ====
section
/-! SUPPORT. Tests: the operand ranges, command words written out bit by bit, the spec's own vectors (95_test_vectors.md),
and for every statement with hypotheses a state that meets them all. -/

namespace Sys2Proof.Tests

open Sys2Proof.Machine Sys2Proof.Claims

/-! ### States to test on -/

/-- The default parameters (00 R7) with signature bytes of the test's choice (95, Conventions: any will do). -/
def demoParams : Params := ⟨8, 256, 16, 2048, 1024, 0xA1, 0xB2, 0xC3⟩

/-- The block right after reset. -/
def demo : State := State.resetWith demoParams

/-- STAGE holds these bytes, FONT_LEN is `len`. -/
def staged (header : List Byte) (len : Word) : State :=
  { demo with mem := cellsFrom 0x1000 header, regs := { Regs.reset with fontLen := len } }

/-- "A good header" (95, Conventions). -/
def goodHeader : List Byte := [0xA1, 0xB2, 0xC3, 0, 8, 8, 0, 1]

/-- Slot 0 is valid and the default, its glyph `c` has these rows, and TEXT holds `c`, one character long. -/
def withGlyph (c : Nat) (rows : List Byte) (g : Regs) : State :=
  { demo with
    fontValid := 1, fontDefault := some 0, regs := g
    mem := cellsFrom 0x2000 [BitVec.ofNat 8 c] ++ cellsFrom (0x10000 + 8 * c) rows }

/-- FONT-A's "A" (95, Conventions). -/
def letterA (g : Regs) : State := withGlyph 65 [0xFF, 0, 0, 0, 0, 0, 0, 0] g

/-- FONT-K's glyph 1, a fully lit cell (95, Conventions). -/
def solid (g : Regs) : State := withGlyph 1 [0xFF, 0xFF, 0xFF, 0xFF, 0xFF, 0xFF, 0xFF, 0xFF] g

/-- RED text, one character, scale 1. -/
def redText : Regs := { Regs.reset with textLen := 1, colorFg := 0xFF0000FF, colorOutline := 0xFF00FF00 }

/-- RED text with a GRN outline of thickness 1 (95 V-SC-P7). -/
def haloText : Regs := { redText with effects := 0x2, outline := 1 }

/-- A palette of two words. -/
def palMem (p q : Word) : Memory := Memory.writeBytes (Memory.writeBytes [] 0x100 p 4) 0x104 q 4

/-- The block with a word pending. -/
def withPending (w : Word) : State := { demo with pending := some w, status := { Status.reset with done := false } }

/-- The host's next access is `op`, its last. -/
def hostAt (op : HostOp) (s : State) : State := { s with host := [op] }

/-- The state a step answers, if it answers one. -/
def nextOf : Host.Outcome State Fault Refusal → Option State
  | .next t => some t
  | .fault _ => none
  | .refused _ => none

/-- The first reply of the run of `n` steps that is still missing after `k` replies. -/
def repliesOf (n : Nat) (s : State) : Option (List Reply) := (nextOf (runSteps n s)).map State.replies

/-! ### Operand ranges (30 R88) -/

theorem test_slot_256_is_ill_formed : ¬ (Instr.fontLoad 256).WellFormed ∧ assemble (.fontLoad 256) = none := by decide

theorem test_scanline_65536_is_ill_formed : ¬ (Instr.sample 65536).WellFormed ∧ assemble (.sample 65536) = none := by
  decide

theorem test_char_256_is_ill_formed : ¬ (Instr.blit 256 .fg).WellFormed ∧ assemble (.blit 256 .fg) = none := by decide

theorem test_largest_operands_are_well_formed :
    (Instr.fontLoad 255).WellFormed ∧ (Instr.sample 65535).WellFormed ∧ (Instr.blit 255 .grad).WellFormed := by decide

/-! ### Command words (30 R81, R88), and words that are none (95 V-CT-5 to V-CT-14) -/

theorem test_decode_nop : decode 0b00000000000000000000000000000000 = .ok .nop := by decide

theorem test_decode_font_load : decode 0b00000001000000000000000011000011 = .ok (.fontLoad 0xC3) := by decide

theorem test_decode_measure : decode 0b00000010000000000000000000000000 = .ok .measure := by decide

theorem test_decode_draw : decode 0b00000011000000000000000000000000 = .ok .draw := by decide

theorem test_decode_sample : decode 0b00000100000000001000000100000011 = .ok (.sample 0x8103) := by decide

theorem test_decode_buf_init : decode 0b00000101000000000000000000000000 = .ok .bufInit := by decide

/-- CSEL in bits [9:8]: 0 to 3 are fg, outline, shadow, grad (42 R150). -/
theorem test_decode_blit :
    decode 0b00000110000000000000000001000001 = .ok (.blit 65 .fg) ∧
    decode 0b00000110000000000000000101000001 = .ok (.blit 65 .outline) ∧
    decode 0b00000110000000000000001001000001 = .ok (.blit 65 .shadow) ∧
    decode 0b00000110000000000000001101000001 = .ok (.blit 65 .grad) := by decide

theorem test_decode_present : decode 0b00000111000000000000000000000000 = .ok .present := by decide

theorem test_decode_clear : decode 0b00001000000000000000000000000000 = .ok .clear := by decide

theorem test_decode_rejects :
    decode 0x00000001 = .error .reservedBits ∧ decode 0x09000000 = .error .reservedOp ∧
    decode 0xFF000000 = .error .reservedOp ∧ decode 0x01000100 = .error .reservedBits ∧
    decode 0x02800000 = .error .reservedBits ∧ decode 0x04010000 = .error .reservedBits ∧
    decode 0x05800000 = .error .reservedBits ∧ decode 0x06000400 = .error .reservedBits ∧
    decode 0x07FFFFFF = .error .reservedBits ∧ decode 0x08000001 = .error .reservedBits := by decide

/-- The examples of 95 Part 3: `blit 1, grad` and `blit 1, shadow`. -/
theorem test_encode_blit : encode (.blit 1 .grad) = 0x06000301 ∧ encode (.blit 1 .shadow) = 0x06000201 := by decide

theorem test_table_word : decodeTableWord 32 0x01000002 = some (.fontLoad 2) ∧ decodeTableWord 32 0x09000000 = none := by
  decide

/-- The word handed over is performed by the very next step after reset. -/
theorem test_fetch_word :
    step (State.reset.withFetchWord 32 0x02000000) = exec .measure (State.reset.withFetchWord 32 0x02000000) := rfl

/-! ### The commands: vectors of 95 Part 2 -/

/-- V-CT-2: NOP after a FONT_LOAD that ended in an error clears ERR. -/
theorem test_nop_clears_err :
    (nextOf (exec .nop { demo with status := ⟨true, false, some .invalidFormat, 1⟩ })).map State.statusWord =
      some 0x00000002 := by decide

/-- V-FS-17: a second slot does not take the default. -/
theorem test_font_load_keeps_default :
    (nextOf (exec (.fontLoad 1) { staged goodHeader 2056 with fontValid := 0x8, fontDefault := some 3 })).map
        (fun t => (t.statusWord, t.fontValidWord, t.fontDefaultWord)) =
      some (0x00000102, 0x0000000A, 0x80000003) := by decide

/-- V-FS-10: the count is little-endian; V-FS-14: one byte short. -/
theorem test_font_load_errors :
    (nextOf (exec (.fontLoad 0) (staged [0xA1, 0xB2, 0xC3, 0, 8, 8, 1, 0] 2056))).map State.statusWord =
      some 0x00000112 ∧
    (nextOf (exec (.fontLoad 0) (staged goodHeader 2055))).map State.statusWord = some 0x00000122 := by decide

/-- V-TC-1: outline 1 and shadow (3, -3) at scale 2; V-TC-7: the maximum, not the sum. -/
theorem test_measure_effects :
    (nextOf (exec .measure { demo with regs := { Regs.reset with
        textLen := 3, scale := 0x0202, effects := 0x6, outline := 1, shadow := 0x0000FD03 } })).map
        (fun t => (t.statusWord, t.outW, t.outH)) = some (0x00000202, 54, 22) ∧
    (nextOf (exec .measure { demo with regs := { Regs.reset with
        textLen := 1, effects := 0x6, outline := 1, shadow := 0x00000003 } })).map
        (fun t => (t.outW, t.outH)) = some (11, 10) := by decide

/-- V-SC-1a: "A" in red: the top row of the 8 × 8 buffer, and no other pixel. -/
theorem test_draw_letter_a :
    (nextOf (exec .draw (letterA redText))).map (fun t => (t.statusWord, t.bufCur, t.pix)) =
      some (0x00000302, 0x00080008,
        List.replicate 8 ⟨255, 0, 0, 255⟩ ++ List.replicate 56 ⟨0, 0, 0, 0⟩) := by decide +kernel

/-- V-TC-15: a filled outline of thickness 2 around the top row of "A", in a 12 × 12 buffer: its rows 1, 2 and 5. -/
theorem test_draw_outline :
    (nextOf (exec .draw (letterA { haloText with outline := 2 }))).map
        (fun t => (t.bufCur, (t.pix.drop 12).take 24, (t.pix.drop 60).take 12)) =
      some (0x000C000C,
        List.replicate 14 ⟨0, 255, 0, 255⟩ ++ List.replicate 8 ⟨255, 0, 0, 255⟩ ++ List.replicate 2 ⟨0, 255, 0, 255⟩,
        List.replicate 12 ⟨0, 0, 0, 0⟩) := by decide +kernel

/-- V-GS-9: RGB, H = 5, s = 4, offset 1/2: the position wraps to the pair (2, 0). -/
theorem test_sample_wraps :
    (nextOf (exec (.sample 4) { demo with
        mem := Memory.writeBytes (palMem 0xFF0000FF 0xFF00FF00) 0x108 0x00FF0000 4
        regs := { Regs.reset with palCount := 3, sampleH := 5, gradOffset := 0x00008000 } })).map
        (fun t => (t.statusWord, t.sampleResult)) = some (0x00000402, 0x80800080) := by decide +kernel

/-- V-GS-20: 0.5 rounds to 1 on a falling slope too. -/
theorem test_sample_rounds_half_up :
    (nextOf (exec (.sample 0) { demo with
        mem := palMem 0x01010101 0x00000000
        regs := { Regs.reset with palCount := 2, sampleH := 2, gradOffset := 0x00008000 } })).map State.sampleResult =
      some 0x01010101 := by decide +kernel

/-- V-GR-14: the background fills a 3 × 2 buffer. -/
theorem test_buf_init_background :
    (nextOf (exec .bufInit { demo with regs := { Regs.reset with
        effects := 0x1, colorBg := 0x80FF0000, bufReq := 0x00020003 } })).map
        (fun t => (t.statusWord, t.bufCur, t.pix)) =
      some (0x00000502, 0x00020003, List.replicate 6 ⟨0, 0, 255, 128⟩) := by decide +kernel

/-- V-GR-13: each dimension has its own limit, "even when the other is 0". -/
theorem test_buf_init_too_large :
    (nextOf (exec .bufInit { demo with regs := { Regs.reset with bufReq := 0x00000801 } })).map
        (fun t => (t.statusWord, t.bufCur)) = some (0x00000562, 0) := by decide

/-- V-GR-3: origin (7, 7) clips all but one pixel. -/
theorem test_blit_clips :
    (nextOf (exec (.blit 1 .fg) { solid { redText with blitOrigin := 0x00070007 } with
        bufCur := 0x00080008, pix := List.replicate 64 ⟨0, 0, 0, 0⟩ })).map (fun t => (t.statusWord, t.pix)) =
      some (0x00000602, List.replicate 63 ⟨0, 0, 0, 0⟩ ++ [⟨255, 0, 0, 255⟩]) := by decide +kernel

/-- V-GR-19: a long palette stops CSEL = grad only. -/
theorem test_blit_checks_palette_for_grad_only :
    (nextOf (exec (.blit 1 .grad) (solid { redText with palCount := 17 }))).map State.statusWord = some 0x00000652 ∧
    (nextOf (exec (.blit 1 .fg) (solid { redText with palCount := 17 }))).map State.statusWord = some 0x00000602 := by
  decide +kernel

/-- V-TC-28: PRESENT of the buffer after reset is a no-op; of a buffer with pixels, one Put at POS. -/
theorem test_present :
    (nextOf (exec .present demo)).map (fun t => (t.statusWord, t.surface)) = some (0x00000706, []) ∧
    (nextOf (exec .present { demo with
        bufCur := 0x00010001, pix := [⟨1, 2, 3, 4⟩], regs := { Regs.reset with pos := 0x00200010 } })).map
        (fun t => (t.statusWord, t.surface)) = some (0x00000702, [.put 16 32 1 1 [⟨1, 2, 3, 4⟩]]) := by decide

/-- V-CT-3: Clear(10, -16, 32, 16). -/
theorem test_clear :
    (nextOf (exec .clear { demo with regs := { Regs.reset with clearXY := 0xFFF0000A, clearWH := 0x00100020 } })).map
        (fun t => (t.statusWord, t.surface)) = some (0x00000802, [.clear 10 (-16) 32 16]) := by decide

/-- V-CT-13: an illegal PRESENT word reports, and puts nothing. -/
theorem test_illegal_word :
    (nextOf (step (withPending 0x07FFFFFF))).map (fun t => (t.statusWord, t.surface)) = some (0x00000742, []) := by decide

/-! ### The host's accesses: vectors of 95, Memory and bus, Reset and hazards -/

/-- V-MEM-8: FONT_SEL keeps its defined bits. -/
theorem test_register_reserved_bits :
    repliesOf 2 { demo with host := [.write .w32 0x000014 0xFFFFFFFF, .read .w32 0x000014] } =
      some [.ack, .data 0x000001FF] := by decide

/-- V-MEM-12: byte order. -/
theorem test_little_endian :
    repliesOf 4 { demo with host := [.write .w8 0x001000 1, .write .w8 0x001001 2, .write .w16 0x001002 0x0403,
      .read .w32 0x001000] } = some [.ack, .ack, .ack, .data 0x04030201] := by decide +kernel

/-- V-MEM-3, 4, 5, 7, 13, 15, 17, 19: bus errors. -/
theorem test_bus_errors :
    repliesOf 8 { demo with host := [.read .w16 0x000000, .read .w8 0x000003, .read .w32 0x000002, .read .w32 0x000070,
      .write .w16 0x001001 0, .read .w8 0x002100, .write .w32 0x000140 0, .write .w8 0x800000 0] } =
      some (List.replicate 8 .busError) := by decide +kernel

/-- V-MEM-2, 11: read-only registers ignore writes, without a bus error. -/
theorem test_read_only_registers :
    repliesOf 4 { demo with host := [.write .w32 0x000000 0, .read .w32 0x000000, .write .w32 0x000008 0xFFFFFFFF,
      .read .w32 0x000008] } = some [.ack, .data 0x01425247, .ack, .data 0] := by decide

/-- V-GR-14: a pixel's bytes are R, G, B, A in ascending addresses. -/
theorem test_pix_bytes :
    repliesOf 2 { demo with
      bufCur := 0x00010001, pix := [⟨0, 0, 255, 128⟩], host := [.read .w32 0x800000, .read .w8 0x800003] } = some [.data 0x80FF0000, .data 0x80] := by decide +kernel

/-- V-FS-20: a byte and a word of GLYPH: FONT-A's "A". -/
theorem test_glyph_bytes :
    repliesOf 2 { letterA redText with host := [.read .w8 0x010208, .read .w32 0x010208] } =
      some [.data 0xFF, .data 0x000000FF] := by decide +kernel

/-- V-FS-17: FONT_VALID and FONT_DEFAULT as the host reads them. -/
theorem test_font_registers :
    repliesOf 2 { demo with
      fontValid := 0xA, fontDefault := some 3, host := [.read .w32 0x00000C, .read .w32 0x000010] } =
      some [.data 0x0000000A, .data 0x80000003] := by decide

/-- V-HZ-2: after DRAW's hand-over a STATUS read shows BUSY, or the finished command. -/
theorem test_status_race :
    repliesOf 2 { demo with host := [.write .w32 0x000004 0x03000000, .read .w32 0x000008], sched := [.host, .host] } =
      some [.ack, .data 0x00000001] ∧
    repliesOf 3 { demo with host := [.write .w32 0x000004 0x03000000, .read .w32 0x000008] } =
      some [.ack, .data 0x00000332] := by decide +kernel

/-- 20 R63, R70: a narrow read of ID or STATUS is a bus error while BUSY = 1 too, and a word read shows BUSY. -/
theorem test_busy_reads_of_status :
    repliesOf 4 { withPending 0x03000000 with
      host := [.read .w8 0x000000, .read .w16 0x00000A, .read .w32 0x000002, .read .w32 0x000008]
      sched := List.replicate 4 .host } = some [.busError, .busError, .busError, .data 0x00000001] := by decide

/-- 30 R89, 70 R229: two polls see BUSY = 1, and only the last one is a value of the run's result. -/
theorem test_wait_polls :
    (nextOf (runSteps 4 { withPending 0x02000000 with host := [.wait], sched := [.host, .host, .engine] })).map
        (fun t => (t.host, t.replies, t.readValues)) =
      some ([], [.polled 0x00000001, .polled 0x00000001, .polled 0x00000202], [0x00000202]) := by decide

/-- V-HZ-3: a write while BUSY = 1 is refused. -/
theorem test_busy_write_is_refused :
    step { withPending 0x03000000 with host := [.write .w32 0x000024 0], sched := [.host] } =
      .refused .hostWriteWhileBusy := rfl

/-- `run nop` (30 R90) and `rgba` (30 R91) as accesses. -/
theorem test_assembler :
    asmRun .nop = some [.write .w32 0x000004 0, .wait] ∧
    asmRgba 0x000034 ⟨255, 0, 0, 255⟩ = [.write .w32 0x000034 0xFF0000FF] := by decide

/-! ### Witnesses: for each statement with hypotheses, values that meet them all; a clause with its own hypotheses has its own -/

theorem drawable_letterA : Drawable (letterA redText) 0 := by unfold Drawable; decide

theorem drawable_solid : Drawable (solid haloText) 0 := by unfold Drawable; decide

/-- A buffer of one pixel, which the host is about to read. -/
def onePixel : State :=
  { demo with bufCur := 0x00010001, pix := [⟨1, 2, 3, 4⟩], host := [.read .w32 0x800000] }

theorem inv_onePixel : Inv onePixel where
  params := by decide
  memory := ⟨List.Pairwise.nil, nofun⟩
  buffer := by unfold BufferOk; decide
  regs := by unfold RegsOk; decide
  fonts := ⟨fun slot h => by simp [onePixel, demo, State.resetWith] at h, nofun, fun _ => rfl⟩
  status := ⟨nofun, nofun⟩
  surface := nofun

/-- A font image's glyph table of zeros. -/
def zeroTable : List Byte := List.replicate 2048 0

theorem zeroTable_length : zeroTable.length = 2048 := List.length_replicate

/-- A blank font in slot 0. -/
def demoFont : State := demo.commitFont 0 zeroTable

theorem demoFont_read (a : Nat) :
    demoFont.mem.read a = if 0x10000 ≤ a ∧ a < 0x10000 + 2048 then zeroTable[a - 0x10000]? else none := by
  show ((demo.mem).fill (glyphAddr 0) zeroTable).read a = _
  rw [read_fill, zeroTable_length]; rfl

theorem inv_demoFont : Inv demoFont where
  params := by decide
  memory := by
    refine ⟨wf_fill _ _ _ List.Pairwise.nil, fun c hc => ⟨.glyph, ?_, by decide⟩⟩
    have hc1 : 0x10000 ≤ c.1 ∧ c.1 < 0x10000 + 2048 := by
      rcases mem_fill _ _ _ c hc with h | h
      · rw [zeroTable_length] at h; exact h
      · cases h
    refine (windowAt_iff demoParams (by decide) _ _).2 ?_
    simp only [Window.Holds, demoParams]; omega
  buffer := ⟨rfl, by decide, by decide⟩
  regs := by unfold RegsOk; decide
  fonts := by
    refine ⟨fun slot h => ?_, fun d h => ?_, nofun⟩
    · have h0 : slot = 0 := by
        have e := flagBit_or_pow 0 0 slot (by decide)
        rw [show flagBit 0 slot = false from flagBit_zero slot, Bool.false_or] at e
        exact of_decide_eq_true (e.symm.trans h)
      subst h0
      refine ⟨by decide, fun i hi => ?_⟩
      have hi : i < 2048 := hi
      rw [demoFont_read, if_pos (by simp only [glyphAddr, Config.glyphBase]; omega)]
      simp [glyphAddr, Config.glyphBase, zeroTable_length, hi]
    · cases h; decide
  status := ⟨nofun, nofun⟩
  surface := nofun

theorem witness_DecodeOfEncode : (Instr.blit 255 .grad).WellFormed := by decide

theorem witness_DecodedWordReassembles : decode 0x0400FFFF = .ok (.sample 65535) := by decide

theorem witness_DecodeFollowsOpcodeMap :
    (⟨"blit", 0x06000000, 0xFFFFFC00⟩ : OpcodeRow) ∈ opcodeTable ∧
      OpcodeRow.Selects ⟨"blit", 0x06000000, 0xFFFFFC00⟩ 0x060003FF := by decide

/-- Each clause of R83's errors at the first value it takes in. -/
theorem witness_IllegalWordsOnlyReport :
    (withPending 0x09000000).pending = some 0x09000000 ∧ IllegalWord 0x09000000 ∧ IllegalWord 0x08000001 ∧
      IllegalWord 0x01000100 ∧ IllegalWord 0x04010000 ∧ IllegalWord 0x06000400 ∧ ¬ IllegalWord 0x060003FF := by
  refine ⟨rfl, ?_, ?_, ?_, ?_, ?_, ?_⟩ <;> (unfold IllegalWord; decide)

theorem witness_StepPerformsDecodedCommand :
    (withPending 0x060003FF).pending = some 0x060003FF ∧ decode 0x060003FF = .ok (.blit 255 .grad) ∧
      (withPending 0x060003FF).sched = [] ∧ { withPending 0x060003FF with sched := [.engine, .host] }.sched =
        .engine :: [.host] := by decide

theorem witness_EveryCommandEnds : (withPending 0x03000000).pending = some 0x03000000 ∧ demo.pending = none := by decide

theorem witness_ErrorsChangeOnlyStatus :
    ∃ t, (withPending 0x03000000).pending = some 0x03000000 ∧ engineTurn (withPending 0x03000000) = .next t ∧
      t.status.err ≠ none := ⟨_, rfl, rfl, by decide⟩

theorem witness_AgentsWriteTheirOwnState_engine : ∃ t, engineTurn (withPending 0x08000000) = .next t := ⟨_, rfl⟩

theorem witness_AgentsWriteTheirOwnState_host :
    ∃ t, demoParams.Legal ∧ (∀ rest, (hostAt (.write .w8 0x001000 7) demo).host ≠ .reset :: rest) ∧
      hostTurn (hostAt (.write .w8 0x001000 7) demo) = .next t :=
  ⟨_, by decide, nofun, rfl⟩

/-- The last slot, and FONT_LEN at both ends of its range. -/
theorem witness_FontLoadCommits :
    demoParams.Legal ∧ 7 < demoParams.fontSlots ∧
    (2056 ≤ field (staged goodHeader 2056).regs.fontLen 0 16 ∧ field (staged goodHeader 4096).regs.fontLen 0 16 ≤ 4096) ∧
    (let s := staged goodHeader 2056
     s.stageByte 0 = s.params.magic0 ∧ s.stageByte 1 = s.params.magic1 ∧ s.stageByte 2 = s.params.magic2 ∧
      s.stageByte 3 = 0 ∧ s.stageByte 4 = 8 ∧ s.stageByte 5 = 8 ∧
      (s.stageByte 6).toNat + 256 * (s.stageByte 7).toNat = 256) := by decide

/-- Slot 8 of 8; FONT_LEN 4097; 7; 8 with a wrong version; 2055 with a good header. -/
theorem witness_FontLoadErrorsInOrder :
    demoParams.fontSlots ≤ 8 ∧ 7 < demoParams.fontSlots ∧
    4096 < field (staged goodHeader 4097).regs.fontLen 0 16 ∧ field (staged goodHeader 7).regs.fontLen 0 16 < 8 ∧
    (8 ≤ field (staged [0xA1, 0xB2, 0xC3, 1, 8, 8, 0, 1] 8).regs.fontLen 0 16 ∧
      (staged [0xA1, 0xB2, 0xC3, 1, 8, 8, 0, 1] 8).stageByte 3 ≠ 0) ∧
    (field (staged goodHeader 2055).regs.fontLen 0 16 < 2056 ∧ (staged goodHeader 2055).headerOk = true) := by decide

/-- A named slot; the default; none (95 V-FS-21). -/
theorem witness_FontResolution :
    (let s := { letterA { redText with fontSel := 0x00000000 } with fontDefault := none }
     flagBit s.regs.fontSel 8 = false ∧ field s.regs.fontSel 0 8 < s.params.fontSlots ∧
      flagBit s.fontValid (field s.regs.fontSel 0 8) = true) ∧
    (flagBit (letterA redText).regs.fontSel 8 = true ∧ (letterA redText).fontDefault = some 0) ∧
    (flagBit demo.regs.fontSel 8 = true ∧ demo.fontDefault = none) := by decide

theorem witness_ResolvedFontIsHeld : Inv demoFont ∧ demoFont.resolveFont = some 0 := ⟨inv_demoFont, by decide⟩

/-- A FONT_LOAD of a good image, by the engine's step, while a reset is next in the host's list. -/
def loading : State := { staged goodHeader 2056 with pending := some 0x01000003, host := [.reset] }

theorem loading_not_reset : ¬ HostResets loading := by
  rintro ⟨_, _, -, h | ⟨-, -, h⟩⟩ <;> cases h

theorem witness_DefaultFontIsSetOnce :
    ∃ t, step loading = .next t ∧ ¬ HostResets loading ∧ loading.fontDefault = none ∧
      t.fontDefault ≠ none :=
  ⟨_, rfl, loading_not_reset, by decide, by decide⟩

theorem witness_DefaultFontIsSetOnce_sets :
    ∃ t, loading.pending = some 0x01000003 ∧ decode 0x01000003 = .ok (.fontLoad 3) ∧ engineTurn loading = .next t ∧
      t.status.err = none ∧ loading.fontDefault = none :=
  ⟨_, rfl, by decide, rfl, by decide, rfl⟩

/-- Another slot is loaded while slot 5 is the default. -/
theorem witness_DefaultFontIsSetOnce_kept :
    ∃ t, step { loading with fontDefault := some 5 } = .next t ∧ ¬ HostResets { loading with fontDefault := some 5 } ∧
      { loading with fontDefault := some 5 }.fontDefault = some 5 :=
  ⟨_, rfl, (by rintro ⟨_, _, -, h | ⟨-, -, h⟩⟩ <;> cases h), rfl⟩

theorem witness_ValidBitsStay :
    ∃ t, step loading = .next t ∧ ¬ HostResets loading ∧ loading.params.Legal ∧
      flagBit loading.fontValid 3 = false ∧ flagBit t.fontValid 3 = true :=
  ⟨_, rfl, loading_not_reset, by decide, by decide, by decide⟩

theorem witness_OnlyFontLoadWritesGlyphs :
    ∃ t, loading.params.Legal ∧ step loading = .next t ∧ ¬ HostResets loading ∧
      0x10000 ≤ 0x11800 ∧ t.mem.read 0x11800 ≠ loading.mem.read 0x11800 := by
  refine ⟨(loading.commitFont 3 loading.stageTable).endCommand 1 none false, by decide, rfl, loading_not_reset, by decide, ?_⟩
  rw [endCommand_mem, commitFont_mem, read_fill, stageTable_length, if_pos (by decide),
    show loading.mem.read 0x11800 = none by decide]
  simp [glyphAddr, Config.glyphBase, Config.fontBytes, stageTable_length]

theorem witness_SamplerIsCyclic : ([⟨255, 0, 0, 255⟩] : List Color) ≠ [] := by decide

theorem witness_RoundingNeedsNoClamp : (0 : ℚ) ≤ 1 / 2 ∧ (1 / 2 : ℚ) < 1 := by norm_num

theorem witness_SamplerEndpoints :
    2 ≤ 2 ∧ [⟨0, 0, 0, 255⟩, ⟨255, 255, 255, 255⟩].head? = some (⟨0, 0, 0, 255⟩ : Color) ∧
      [⟨0, 0, 0, 255⟩, ⟨255, 255, 255, 255⟩].getLast? = some (⟨255, 255, 255, 255⟩ : Color) := by decide

/-- The longest palette that fits. -/
theorem witness_SampleWritesItsColour :
    field { demo with regs := { Regs.reset with palCount := 16 } }.regs.palCount 0 8 ≤ demoParams.maxPalette := by decide

theorem witness_LongPaletteIsParam :
    (let s := letterA { redText with palCount := 17, effects := 0x8 }
     s.params.maxPalette < field s.regs.palCount 0 8 ∧ s.resolveFont = some 0 ∧ flagBit s.regs.effects 3 = true) := by
  decide

theorem witness_BlitPixels : (Raster.filled 8 8 ⟨0, 0, 0, 0⟩).pixels.length = 8 * 8 := by decide

/-- The largest buffer; and one pixel more in each dimension (95 V-GR-13). -/
theorem witness_BufInitFillsOrTooLarge :
    (field (0x04000800 : Word) 0 16 ≤ demoParams.maxW ∧ field (0x04000800 : Word) 16 16 ≤ demoParams.maxH) ∧
    demoParams.maxW < field (0x04000801 : Word) 0 16 ∧ demoParams.maxH < field (0x04010800 : Word) 16 16 := by decide

theorem witness_BlitPaintsTheGlyph :
    demo.resolveFont = none ∧ (letterA { redText with palCount := 16 }).resolveFont = some 0 ∧
      field (letterA { redText with palCount := 16 }).regs.palCount 0 8 ≤ demoParams.maxPalette ∧
      (letterA { redText with palCount := 16 }).pix.length = (letterA redText).bufW * (letterA redText).bufH := by decide

theorem witness_EmptyBlitsWriteNothing : ∀ row < 8, (fun _ => 0 : Nat → Byte) row = 0 := fun _ _ => rfl

theorem witness_MeasureAndDrawAgree :
    ∃ t u, exec .draw (letterA redText) = .next t ∧ t.status.err = none ∧ exec .measure (letterA redText) = .next u :=
  ⟨_, _, rfl, by decide, rfl⟩

theorem witness_DrawPaintsTheText : demoParams.Legal ∧ Drawable (letterA redText) 0 := ⟨by decide, drawable_letterA⟩

/-- No font; 257 characters; 17 palette entries in use; a width of 2056 (95 V-TC-12, 13). -/
theorem witness_DrawErrorsInOrder :
    demo.resolveFont = none ∧ (letterA redText).resolveFont = some 0 ∧
    demoParams.maxText < field (257 : Word) 0 16 ∧
    (flagBit (0x8 : Word) 3 = true ∧ demoParams.maxPalette < field (17 : Word) 0 8) ∧
    (let s := letterA { redText with textLen := 256, effects := 0x4, shadow := 0x8 }
     s.resolveFont = some 0 ∧ field s.regs.textLen 0 16 ≤ s.params.maxText ∧ flagBit s.regs.effects 3 = false ∧
      sizeW s.regs = 2056 ∧ sizeH s.regs ≠ 0 ∧ s.params.maxW < sizeW s.regs) := by decide

/-- sx = 0, and sy = 0 with a width beyond MAX_W (95 V-TC-13, 14). -/
theorem witness_DrawNoop :
    (letterA { redText with scale := 0x0100 }).resolveFont = some 0 ∧ sizeW { redText with scale := 0x0100 } = 0 ∧
    sizeH { redText with scale := 0x0002, textLen := 256 } = 0 ∧
    field { redText with scale := 0x0002, textLen := 256 }.textLen 0 16 ≤ demoParams.maxText ∧
    flagBit redText.effects 3 = false := by decide

/-- An outline pads the empty string (95 V-TC-9); nothing does (V-TC-8). -/
theorem witness_EmptyStringDraws :
    (let s := letterA { haloText with textLen := 0 }
     s.params.Legal ∧ s.resolveFont = some 0 ∧ field s.regs.textLen 0 16 = 0 ∧ flagBit s.regs.effects 3 = false ∧
      max ((effDX s.regs).natAbs * effSX s.regs) (effT s.regs * effSX s.regs * 2) = 2 ∧ sizeH s.regs = 10) ∧
    (let g := { redText with textLen := 0 }
     max ((effDX g).natAbs * effSX g) (effT g * effSX g * 2) = 0) := by decide

theorem witness_OutlineHalo :
    (let s := solid haloText
     s.params.Legal ∧ field s.regs.textLen 0 16 = 1 ∧ (∀ row < 8, s.glyphRow 0 (s.textChar 0) row = 0xFF) ∧
      effSX s.regs = 1 ∧ effSY s.regs = 1 ∧ flagBit s.regs.effects 1 = true ∧ field s.regs.outline 0 8 = 1 ∧
      flagBit s.regs.effects 2 = false ∧ flagBit s.regs.effects 3 = false) ∧ Drawable (solid haloText) 0 :=
  ⟨by decide, drawable_solid⟩

theorem witness_CoordinatesAreBounded :
    demoParams.Legal ∧ Drawable (solid haloText) 0 ∧ 0 < field haloText.textLen 0 16 ∧
      (-1, 1) ∈ outlineOffsets (effT haloText) := ⟨by decide, drawable_solid, by decide, by decide⟩

/-- No effect is enabled, and a parameter of each, and a PAL byte, differs. -/
theorem witness_DisabledEffectsAreIgnored :
    ∃ t, DifferWhereDisabled (letterA redText)
        { redText with colorBg := 7, outline := 5, shadow := 0x0103, palCount := 17, gradOffset := 9 }
        ((letterA redText).mem.write 0x100 7) ∧ exec .draw (letterA redText) = .next t := by
  refine ⟨_, ⟨rfl, by decide, by decide, by decide, by decide, fun a h => read_write_other _ _ _ _ ?_⟩, rfl⟩
  rcases h with h | h
  · exact absurd h (by decide)
  · omega

theorem witness_PresentPutsTheBuffer :
    { demo with bufCur := 0x00010001 }.bufW ≠ 0 ∧ { demo with bufCur := 0x00010001 }.bufH ≠ 0 ∧ demo.bufW = 0 := by decide

/-! Whose turn it is -/

/-- The host's last access comes next, by the default turn of log 4. -/
theorem hostTurn_default (op : HostOp) : HostTurnAt (hostAt op demo) op [] [] := ⟨rfl, .inr ⟨rfl, rfl, rfl⟩⟩

/-- The host's last access comes next, by `sched`. -/
theorem hostTurn_sched (op : HostOp) (s : State) :
    HostTurnAt { hostAt op s with sched := [.host, .engine] } op [] [.engine] := ⟨rfl, .inl rfl⟩

theorem witness_CmdWriteHandsOver :
    HostTurnAt (hostAt (.write .w32 0x000004 0x03000000) demo) (.write .w32 0x000004 0x03000000) [] [] ∧
      (hostAt (.write .w32 0x000004 0x03000000) demo).busy = false := ⟨hostTurn_default _, rfl⟩

theorem witness_RegistersKeepTheirFields :
    (0x14, 0x000001FF) ∈ rwRegisters ∧ (0x6C, 0xFFFFFFFF) ∈ rwRegisters ∧ demo.busy = false ∧ demo.sched = [] := by decide

theorem witness_ReadOnlyRegistersIgnoreWrites :
    0x00 ∈ readOnlyRegisters ∧ 0x64 ∈ readOnlyRegisters ∧ demo.busy = false ∧
      HostTurnAt (hostAt (.write .w32 0x000064 1) demo) (.write .w32 0x000064 1) [] [] :=
  ⟨by decide, by decide, rfl, hostTurn_default _⟩

/-- With and without a default font; the last register of the map. -/
theorem witness_ReadOnlyRegistersIgnoreWrites_read :
    demo.busy = false ∧ HostTurnAt (hostAt (.read .w32 0x00000C) demo) (.read .w32 0x00000C) [] [] ∧
      HostTurnAt (hostAt (.read .w32 0x000010) demo) (.read .w32 0x000010) [] [] ∧ demo.fontDefault = none ∧
      HostTurnAt { hostAt (.read .w32 0x000010) demo with fontDefault := some 7 } (.read .w32 0x000010) [] [] ∧
      (0x6C, 0) ∈ registerValues demo :=
  ⟨rfl, hostTurn_default _, hostTurn_default _, rfl, ⟨rfl, .inr ⟨rfl, rfl, rfl⟩⟩, by decide⟩

/-- An access whose bytes are all mapped is not bad. -/
theorem not_bad (p : Params) (w : Width) (a : Nat) (h1 : 0x70 ≤ a) (h2 : a % w.bytes = 0)
    (h3 : ∀ k < w.bytes, Mapped p (a + k)) : ¬ BadAccess p w a := by
  rintro (⟨h, -⟩ | ⟨-, h | ⟨k, hk, hm⟩⟩)
  · omega
  · exact h h2
  · exact hm (h3 k hk)

/-- STAGE is mapped whole, in every block. -/
theorem mapped_stage (p : Params) (a : Nat) (h : 0x1000 ≤ a) (h' : a < 0x2000) : Mapped p a :=
  .inr (.inl ⟨a - 0x1000, by omega, by omega⟩)

/-- The last word of STAGE (95 V-MEM-14). -/
theorem not_bad_stage : ¬ BadAccess demoParams .w32 0x1FFC :=
  not_bad _ _ _ (by decide) (by decide) fun k hk =>
    mapped_stage _ _ (by omega) (by have hk : k < 4 := hk; omega)

/-- 95 V-MEM-4, 5, 7: a narrow register access, a misaligned one, and the first unmapped address. -/
theorem bad_accesses :
    BadAccess demoParams .w8 0x03 ∧ BadAccess demoParams .w32 0x02 ∧ BadAccess demoParams .w32 0x70 := by
  refine ⟨.inl (by decide), .inl (by decide), .inr ⟨by decide, .inr ⟨0, by decide, ?_⟩⟩⟩
  rintro (⟨e, _, h⟩ | ⟨i, _, h⟩ | ⟨k, _, h⟩ | ⟨s, _, i, _, h⟩ | ⟨j, _, h⟩) <;> omega

theorem witness_BusErrorsChangeNothing :
    demoParams.Legal ∧ demo.busy = false ∧
    (HostTurnAt (hostAt (.read .w32 0x000070) demo) (.read .w32 0x000070) [] [] ∧ BadAccess demoParams .w32 0x70) ∧
    (HostTurnAt (hostAt (.read .w32 0x001FFC) demo) (.read .w32 0x001FFC) [] [] ∧ ¬ BadAccess demoParams .w32 0x1FFC) ∧
    (HostTurnAt (hostAt (.write .w8 0x010000 1) demo) (.write .w8 0x010000 1) [] [] ∧ 0x10000 ≤ 0x10000) ∧
    (HostTurnAt (hostAt (.write .w32 0x001FFC 1) demo) (.write .w32 0x001FFC 1) [] [] ∧
      ¬ (BadAccess demoParams .w32 0x1FFC ∨ 0x10000 ≤ 0x1FFC)) :=
  ⟨by decide, rfl, ⟨hostTurn_default _, bad_accesses.2.2⟩, ⟨hostTurn_default _, not_bad_stage⟩,
   ⟨hostTurn_default _, by decide⟩, ⟨hostTurn_default _, fun h => h.elim not_bad_stage (by decide)⟩⟩

theorem witness_HostAccessesAreLittleEndian_write :
    demoParams.Legal ∧ demo.busy = false ∧
      HostTurnAt (hostAt (.write .w32 0x001FFC 0x04030201) demo) (.write .w32 0x001FFC 0x04030201) [] [] ∧
      ¬ BadAccess demoParams .w32 0x1FFC ∧ 0x70 ≤ 0x1FFC ∧ 0x1FFC < 0x10000 :=
  ⟨by decide, rfl, hostTurn_default _, not_bad_stage, by decide, by decide⟩

/-- The last two bytes of a font header that STAGE holds, and one byte alone. -/
theorem witness_HostAccessesAreLittleEndian_read :
    (let s := hostAt (.read .w16 0x001006) (staged goodHeader 0)
     s.busy = false ∧ HostTurnAt s (.read .w16 0x001006) [] [] ∧
      ∀ k < Width.w16.bytes, s.byteAt (0x1006 + k) = some (BitVec.ofNat 8 k)) ∧
    (let s := hostAt (.read .w8 0x001007) (staged goodHeader 0)
     HostTurnAt s (.read .w8 0x001007) [] [] ∧ ∀ k < Width.w8.bytes, s.byteAt (0x1007 + k) = some 1) :=
  ⟨⟨rfl, ⟨rfl, .inr ⟨rfl, rfl, rfl⟩⟩, by decide⟩, ⟨rfl, .inr ⟨rfl, rfl, rfl⟩⟩, by decide⟩

theorem witness_PixWindowShowsThePixels :
    Inv onePixel ∧ onePixel.busy = false ∧ 0 < onePixel.bufW ∧ 0 < onePixel.bufH ∧
      onePixel.pix[0 * onePixel.bufW + 0]? = some ⟨1, 2, 3, 4⟩ ∧
      (0x800000 : Addr).toNat = 0x800000 + 4 * (0 * onePixel.bufW + 0) ∧
      HostTurnAt onePixel (.read .w32 0x800000) [] [] :=
  ⟨inv_onePixel, rfl, by decide, by decide, by decide, by decide, rfl, .inr ⟨rfl, rfl, rfl⟩⟩

theorem witness_ReadsHaveNoSideEffect :
    HostTurnAt { hostAt (.read .w32 0x00005C) (withPending 0x02000000) with sched := [.host, .engine] }
      (.read .w32 0x00005C) [] [.engine] := hostTurn_sched _ _

/-- ID, STATUS, their other bytes, and another mapped address, while BUSY = 1. -/
theorem witness_ReadsWhileBusy :
    (withPending 0x02000000).busy = true ∧ demoParams.Legal ∧ ¬ BadAccess demoParams .w32 0x1FFC ∧
    ((0x000003 : Addr).toNat < 4 ∧ Width.w8 ≠ .w32) ∧ (8 ≤ (0x00000A : Addr).toNat ∧ (0x00000A : Addr).toNat % 4 ≠ 0) ∧
    ∀ (w : Width) (a : Addr), HostTurnAt { hostAt (.read w a) (withPending 0x02000000) with sched := [.host, .engine] }
      (.read w a) [] [.engine] := ⟨rfl, by decide, not_bad_stage, by decide, by decide, fun _ _ => hostTurn_sched _ _⟩

theorem witness_OnlyBusyWritesAreRefused :
    (withPending 0x02000000).busy = true ∧
    HostTurnAt { hostAt (.write .w32 0x000024 0) (withPending 0x02000000) with sched := [.host, .engine] }
      (.write .w32 0x000024 0) [] [.engine] := ⟨rfl, hostTurn_sched _ _⟩

/-- `wait` while BUSY = 1, and while BUSY = 0. -/
theorem witness_WaitPollsStatus :
    HostTurnAt { hostAt .wait (withPending 0x02000000) with sched := [.host, .engine] } .wait [] [.engine] ∧
      HostTurnAt (hostAt .wait demo) .wait [] [] ∧
    (hostAt .wait (withPending 0x02000000)).pending = some 0x02000000 ∧
      (hostAt .wait (withPending 0x02000000)).host = [.wait] := ⟨hostTurn_sched _ _, hostTurn_default _, rfl, rfl⟩

theorem witness_StatusReadMayRaceTheEngine :
    (hostAt (.read .w32 0x000008) (withPending 0x03000000)).pending = some 0x03000000 ∧
      (hostAt (.read .w32 0x000008) (withPending 0x03000000)).host = [.read .w32 0x000008] := ⟨rfl, rfl⟩

theorem witness_ResetRegisterValues : (0x14, 0x00000100) ∈ resetTable ∧ regAt 0x14 = some .fontSel := by decide

theorem witness_ResetInput : HostTurnAt (hostAt .reset demo) .reset [] [] := hostTurn_default _

theorem witness_ResetMeetsInvariant : demoParams.Legal := by decide

theorem witness_StepKeepsInvariant : ∃ t, Inv onePixel ∧ step onePixel = .next t :=
  ⟨_, inv_onePixel, rfl⟩

theorem witness_SurfaceLogOnlyGrows : ∃ t, step (withPending 0x08000000) = .next t := ⟨_, rfl⟩

/-- A host that polls twice, with an empty and a long schedule before the engine's turn. -/
theorem witness_PendingCommandIsPerformed :
    (let s := { withPending 0x08000000 with host := [.wait, .write .w32 0x000024 0], sched := [.host, .host] }
     s.pending = some 0x08000000 ∧ waitsBeforeWriting true s.host = true ∧ HostOp.reset ∉ s.host) := by decide

/-- Two commands, each waited for (30 R90). -/
theorem witness_WaitingHostIsNeverRefused :
    waitsBeforeWriting demo.busy
      [.write .w32 0x000004 0x03000000, .wait, .write .w32 0x000024 0, .write .w32 0x000004 0, .wait, .reset,
       .write .w32 0x000024 0] = true := by decide

end Sys2Proof.Tests
end

section
/-! PROOF. Engine and host each write only their own state (00 R5): what a turn of either agent keeps, by the cases of the
commands' results and of the host's accesses. -/

namespace Sys2Proof.Machine

/-! ### The results of SAMPLE, BUF_INIT and PRESENT -/

/-- SAMPLE raises an error, or writes SAMPLE_RESULT (41 R126). -/
theorem sampleCmdResult_cases (scanline : Nat) (s : State) :
    (∃ e, sampleCmdResult scanline s = .raise e) ∨ (∃ w, sampleCmdResult scanline s = .ok (s.setSample w)) := by
  unfold sampleCmdResult
  split
  · exact .inl ⟨_, rfl⟩
  · exact .inr ⟨_, rfl⟩

/-- BUF_INIT raises an error, or makes the filled buffer of the requested size, which is within the limits (42 R148). -/
theorem bufInitResult_cases (s : State) :
    (∃ e, bufInitResult s = .raise e) ∨
    (s.regs.reqW ≤ s.params.maxW ∧ s.regs.reqH ≤ s.params.maxH ∧
      bufInitResult s = .ok (s.setBuffer s.regs.reqW s.regs.reqH
        (Raster.filled s.regs.reqW s.regs.reqH s.regs.fillColor).pixels)) := by
  by_cases h : s.params.maxW < s.regs.reqW ∨ s.params.maxH < s.regs.reqH
  · exact .inl ⟨.tooLarge, by simp [bufInitResult, h]⟩
  · exact .inr ⟨by omega, by omega, by simp [bufInitResult, h]⟩

/-- PRESENT is the no-op on an empty buffer, or puts the current one (43 R176). -/
theorem presentResult_cases (s : State) :
    ((s.bufW = 0 ∨ s.bufH = 0) ∧ presentResult s = .noop s) ∨
    (s.bufW ≠ 0 ∧ s.bufH ≠ 0 ∧ presentResult s = .ok (s.put s.raster)) := by
  by_cases h : s.bufW = 0 ∨ s.bufH = 0
  · exact .inl ⟨h, by simp [presentResult, h]⟩
  · exact .inr ⟨by omega, by omega, by simp [presentResult, h]⟩

/-! ### What the engine keeps -/

/-- What the host alone writes is the same in both states: the read-write registers, the parameters, the host's side of the
interface and the bytes below GLYPH. -/
def KeepsHostState (s t : State) : Prop :=
  t.regs = s.regs ∧ t.params = s.params ∧ t.host = s.host ∧ t.replies = s.replies ∧ t.sched = s.sched ∧
  ∀ a, a < 0x10000 → t.mem.read a = s.mem.read a

theorem KeepsHostState.refl (s : State) : KeepsHostState s s := ⟨rfl, rfl, rfl, rfl, rfl, fun _ _ => rfl⟩

/-- The end of a command (60 R201) writes nothing of the host's. -/
theorem KeepsHostState.endCommand {s t : State} (h : KeepsHostState s t) (op : Byte) (err : Option CmdError) (noop : Bool) :
    KeepsHostState s (t.endCommand op err noop) := h

/-- A font slot's bytes stand in GLYPH, at or above 0x010000 (20 R62). -/
theorem commitFont_read_low (s : State) (slot : Nat) (bytes : List Byte) (a : Nat) (ha : a < 0x10000) :
    (s.commitFont slot bytes).mem.read a = s.mem.read a := by
  have below : ¬ (glyphAddr slot ≤ a ∧ a < glyphAddr slot + bytes.length) := by
    simp only [glyphAddr, Config.glyphBase]; omega
  rw [commitFont_mem, read_fill, if_neg below]

/-- A command's own writes touch nothing of the host's (00 R5): the memory changes in FONT_LOAD only, and there in GLYPH. -/
theorem resultOf_keepsHostState (i : Instr) (s : State) : KeepsHostState s ((resultOf i s).base s) := by
  cases i with
  | nop => exact .refl s
  | fontLoad slot =>
    obtain ⟨e, h⟩ | ⟨-, -, -, -, h⟩ := fontLoadResult_cases slot s
    · simpa only [resultOf, h] using .refl s
    · simp only [resultOf, h]
      exact ⟨rfl, rfl, rfl, rfl, rfl, commitFont_read_low s slot s.stageTable⟩
  | measure => exact .refl s
  | draw =>
    obtain ⟨e, h⟩ | h | ⟨f, -, -, -, h⟩ := drawResult_cases s <;> simpa only [resultOf, h] using .refl s
  | sample scanline =>
    obtain ⟨e, h⟩ | ⟨w, h⟩ := sampleCmdResult_cases scanline s <;> simpa only [resultOf, h] using .refl s
  | bufInit =>
    obtain ⟨e, h⟩ | ⟨-, -, h⟩ := bufInitResult_cases s <;> simpa only [resultOf, h] using .refl s
  | blit char csel =>
    obtain ⟨e, h⟩ | ⟨f, -, h⟩ := blitResult_cases char csel s <;> simpa only [resultOf, h] using .refl s
  | present =>
    obtain ⟨-, h⟩ | ⟨-, -, h⟩ := presentResult_cases s <;> simpa only [resultOf, h] using .refl s
  | clear => exact .refl s

/-- The engine's turn is idle, or ends one command, legal or not, on the state its own writes leave. -/
theorem engineTurn_keepsHostState (s t : State) (h : engineTurn s = .next t) : KeepsHostState s t := by
  unfold engineTurn at h
  split at h
  · cases h; exact .refl s
  · rename_i w _
    obtain ⟨i, -, hi⟩ | ⟨-, hi⟩ := perform_cases w s <;> rw [hi] at h <;> cases h <;> rw [finish_eq]
    · exact (resultOf_keepsHostState i s).endCommand _ _ _
    · exact (KeepsHostState.refl s).endCommand _ _ _

/-! ### What the host keeps -/

/-- What the engine alone writes is the same in both states: the parameters, the font state, the result registers, the
pixels, the surface log and the GLYPH bytes. -/
def KeepsEngineState (s t : State) : Prop :=
  t.params = s.params ∧ t.fontValid = s.fontValid ∧ t.fontDefault = s.fontDefault ∧ t.sampleResult = s.sampleResult ∧
  t.outW = s.outW ∧ t.outH = s.outH ∧ t.bufCur = s.bufCur ∧ t.pix = s.pix ∧ t.surface = s.surface ∧
  ∀ a, 0x10000 ≤ a → t.mem.read a = s.mem.read a

theorem KeepsEngineState.refl (s : State) : KeepsEngineState s s :=
  ⟨rfl, rfl, rfl, rfl, rfl, rfl, rfl, rfl, rfl, fun _ _ => rfl⟩

/-- Taking an access off the host's list and answering it write nothing of the engine's. -/
theorem KeepsEngineState.answered {s t : State} {rest : List HostOp} (h : KeepsEngineState { s with host := rest } t)
    (r : Reply) : KeepsEngineState s (t.answer r) := h

theorem writeReg_keepsEngineState (s : State) (r : Reg) (v : Word) : KeepsEngineState s (s.writeReg r v) := by
  simp [KeepsEngineState]

/-- An accepted window write stores below 0x010000 (20 R68). -/
theorem writeBytes_read_high (p : Params) (hp : p.Legal) (w : Width) (a : Nat) (ha : ¬ a < regEnd)
    (hok : writeOk p w a = true) (m : Memory) (v : Word) (b : Nat) (hb : 0x10000 ≤ b) :
    (m.writeBytes a v w.bytes).read b = m.read b := by
  have outside : ¬ (a ≤ b ∧ b < a + w.bytes) := fun ⟨hab, hlt⟩ => by
    obtain ⟨hlow, -⟩ := writeOk_low p hp w a ha hok (b - a) (by omega)
    omega
  rw [read_writeBytes, if_neg outside]

theorem busWrite_keepsEngineState (s : State) (hp : s.params.Legal) (w : Width) (a : Nat) (v : Word) :
    KeepsEngineState s (s.busWrite w a v).1 := by
  obtain h | ⟨r, -, -, h⟩ | ⟨hok, ha, h⟩ := busWrite_cases s w a v <;> rw [h]
  · exact .refl s
  · exact writeReg_keepsEngineState s r v
  · exact ⟨rfl, rfl, rfl, rfl, rfl, rfl, rfl, rfl, rfl, writeBytes_read_high s.params hp w a ha hok s.mem v⟩

/-- Of the host's turns, other than the reset input, a write alone changes more than the host's side of the interface. -/
theorem hostTurn_keepsEngineState (s t : State) (hp : s.params.Legal) (hr : ∀ rest, s.host ≠ .reset :: rest)
    (h : hostTurn s = .next t) : KeepsEngineState s t := by
  obtain ⟨-, rfl⟩ | ⟨w, a, rest, -, rfl⟩ | ⟨w, a, v, rest, -, -, rfl⟩ | ⟨rest, -, -, rfl⟩ | ⟨rest, -, -, rfl⟩ |
    ⟨rest, hreset, -⟩ := hostTurn_cases s t h
  · exact .refl _
  · exact (KeepsEngineState.refl { s with host := rest }).answered _
  · exact (busWrite_keepsEngineState { s with host := rest } hp w a.toNat v).answered _
  · exact .refl s
  · exact .refl s
  · exact absurd hreset (hr rest)

/-- Settles O9: each agent's turn keeps what the other agent writes. -/
theorem agentsWriteTheirOwnState : Obligations.AgentsWriteTheirOwnState :=
  ⟨engineTurn_keepsHostState, hostTurn_keepsEngineState⟩

end Sys2Proof.Machine
end

section
/-! PROOF. What a step can do, said once for the proofs below: the agent whose turn it is, and how each agent's turn ends. -/

namespace Sys2Proof.Machine

open Sys2Proof.Claims

/-- A step is the engine's turn, or the host's, and then whichever access is next in the host's list is the one made
(log 4). -/
theorem step_cases (s t : State) (h : step s = .next t) :
    ∃ q, engineTurn { s with sched := q } = .next t ∨
      (hostTurn { s with sched := q } = .next t ∧ ∀ op rest, s.host = op :: rest → HostTurnAt s op rest q) := by
  unfold step takeTurn at h
  split at h
  · rename_i q _
    exact ⟨q, .inl h⟩
  · rename_i q hs
    exact ⟨q, .inr ⟨h, fun _ _ hh => ⟨hh, .inl hs⟩⟩⟩
  · rename_i hs
    have same : { s with sched := [] } = s := by rw [← hs]
    refine ⟨[], ?_⟩
    rw [same]
    cases hb : s.busy with
    | true => exact .inl (by simpa [hb] using h)
    | false => exact .inr ⟨by simpa [hb] using h, fun _ _ hh => ⟨hh, .inr ⟨hs, rfl, hb⟩⟩⟩

/-- The engine's turn is idle, or it ends the command of the pending word, or an illegal word (60 R214, 70 R222). -/
theorem engineTurn_cases (s t : State) (h : engineTurn s = .next t) :
    (s.pending = none ∧ t = s) ∨
    (∃ w i, s.pending = some w ∧ decode w = .ok i ∧ t = finish (BitVec.ofNat 8 i.opcode) s (resultOf i s)) ∨
    (∃ w, s.pending = some w ∧ t = s.endCommand (opField w) (some .illegalCommand) false) := by
  unfold engineTurn at h
  split at h
  · rename_i hp
    cases h
    exact .inl ⟨hp, rfl⟩
  · rename_i w hp
    obtain ⟨i, hi, hw⟩ | ⟨-, hw⟩ := perform_cases w s <;> rw [hw] at h <;> cases h
    · exact .inr (.inl ⟨w, i, hp, hi, rfl⟩)
    · exact .inr (.inr ⟨w, hp, rfl⟩)

/-- How the command `i`, performed in the state `s`, can end: with an error, with its writes made, or as a no-op. -/
inductive Ends (s : State) : Instr → CmdResult → Prop
  | raise {i : Instr} (e : CmdError) : Ends s i (.raise e)
  | nop : Ends s .nop (.ok s)
  | fontLoad {slot : Nat} (hs : slot < s.params.fontSlots) :
    Ends s (.fontLoad slot) (.ok (s.commitFont slot s.stageTable))
  | measure (w h : Nat) : Ends s .measure (.ok (s.setOutSize w h))
  | drawNothing (w h : Nat) : Ends s .draw (.noop (s.setOutSize w h))
  | draw {r : Raster} (hr : r.Ok) (hw : 1 ≤ r.w ∧ r.w ≤ s.params.maxW) (hh : 1 ≤ r.h ∧ r.h ≤ s.params.maxH) :
    Ends s .draw (.ok (((s.setOutSize r.w r.h).setBuffer r.w r.h r.pixels).put r))
  | sample {scanline : Nat} (w : Word) : Ends s (.sample scanline) (.ok (s.setSample w))
  | bufInit {r : Raster} (hr : r.Ok) (hw : r.w ≤ s.params.maxW) (hh : r.h ≤ s.params.maxH) :
    Ends s .bufInit (.ok (s.setBuffer r.w r.h r.pixels))
  | blit {char : Nat} {csel : Csel} {pixels : List Color} (hl : pixels.length = s.pix.length) :
    Ends s (.blit char csel) (.ok { s with pix := pixels })
  | presentNothing : Ends s .present (.noop s)
  | present (hw : 1 ≤ s.bufW) (hh : 1 ≤ s.bufH) : Ends s .present (.ok (s.put s.raster))
  | clear : Ends s .clear (.ok (s.emit (.clear s.regs.clearX s.regs.clearY s.regs.clearW s.regs.clearH)))

/-- Every command ends in one of these ways. -/
theorem resultOf_ends (i : Instr) (s : State) : Ends s i (resultOf i s) := by
  cases i with
  | nop => exact .nop
  | fontLoad slot =>
    obtain ⟨e, h⟩ | ⟨hs, -, -, -, h⟩ := fontLoadResult_cases slot s <;> simp only [resultOf, h]
    · exact .raise e
    · exact .fontLoad hs
  | measure => exact .measure _ _
  | draw =>
    obtain ⟨e, h⟩ | h | ⟨f, -, hw, hh, h⟩ := drawResult_cases s <;> simp only [resultOf, h]
    · exact .raise e
    · exact .drawNothing _ _
    · obtain ⟨hrw, hrh, hr⟩ := drawn_shape s f
      rw [← hrw] at hw ⊢
      rw [← hrh] at hh ⊢
      exact .draw hr hw hh
  | sample scanline =>
    obtain ⟨e, h⟩ | ⟨w, h⟩ := sampleCmdResult_cases scanline s <;> simp only [resultOf, h]
    · exact .raise e
    · exact .sample w
  | bufInit =>
    obtain ⟨e, h⟩ | ⟨hw, hh, h⟩ := bufInitResult_cases s <;> simp only [resultOf, h]
    · exact .raise e
    · exact .bufInit (r := Raster.filled _ _ _) (filled_ok _ _ _) hw hh
  | blit char csel =>
    obtain ⟨e, h⟩ | ⟨f, -, h⟩ := blitResult_cases char csel s <;> simp only [resultOf, h]
    · exact .raise e
    · exact .blit (blit_shape _ _ _ _ _ _ s.raster).2.2
  | present =>
    obtain ⟨-, h⟩ | ⟨hw, hh, h⟩ := presentResult_cases s <;> simp only [resultOf, h]
    · exact .presentNothing
    · exact .present (Nat.pos_of_ne_zero hw) (Nat.pos_of_ne_zero hh)
  | clear => exact .clear

/-- A no-op is a DRAW or a PRESENT (10 R23), and no error. -/
theorem Ends.noop {s : State} {i : Instr} {r : CmdResult} (he : Ends s i r) (hn : r.isNoop = true) :
    r.error = none ∧ (i = .draw ∨ i = .present) := by
  cases he with
  | drawNothing w h => exact ⟨rfl, .inl rfl⟩
  | presentNothing => exact ⟨rfl, .inr rfl⟩
  | _ => cases hn

/-- On its turn the host makes its next access. -/
theorem step_hostTurnAt {s : State} {op : HostOp} {rest : List HostOp} {q : List Agent} (h : HostTurnAt s op rest q) :
    step s = hostTurn { s with sched := q } := by
  obtain ⟨-, hs | ⟨hs, rfl, hb⟩⟩ := h
  · simp [step, takeTurn, hs]
  · have same : { s with sched := [] } = s := by rw [← hs]
    simp [step, takeTurn, hs, hb, same]

end Sys2Proof.Machine
end

section
/-! PROOF. Every step keeps the invariant (10 R23, R24, R49, R52, R53, 40 R103, R105): first each update of the state, then
the commands and the host's accesses, made of those updates. -/

namespace Sys2Proof.Machine

open Sys2Proof.Claims

/-! ### Updates of the state -/

/-- The invariant says nothing of the host's side of the interface, nor of the counter of free values. -/
theorem Inv.interface {s : State} (h : Inv s) (host : List HostOp) (replies : List Reply) (sched : List Agent)
    (draws : Nat) : Inv { s with host := host, replies := replies, sched := sched, draws := draws } :=
  ⟨h.params, h.memory, h.buffer, h.regs, h.fonts, h.status, h.surface⟩

/-- The end of a command (60 R201) keeps the invariant where NOOP is set for a DRAW or PRESENT only (10 R23). -/
theorem Inv.endCommand {s : State} (h : Inv s) (op : Byte) (err : Option CmdError) (noop : Bool)
    (hn : noop = true → err = none ∧ (op = 0x03 ∨ op = 0x07)) : Inv (s.endCommand op err noop) :=
  ⟨h.params, h.memory, h.buffer, h.regs, h.fonts, ⟨nofun, hn⟩, h.surface⟩

theorem Inv.handOver {s : State} (h : Inv s) (w : Word) : Inv (s.handOver w) :=
  ⟨h.params, h.memory, h.buffer, h.regs, h.fonts, ⟨fun _ => rfl, h.status.2⟩, h.surface⟩

theorem Inv.setOutSize {s : State} (hs : Inv s) (w h : Nat) : Inv (s.setOutSize w h) :=
  ⟨hs.params, hs.memory, hs.buffer, hs.regs, hs.fonts, hs.status, hs.surface⟩

theorem Inv.setSample {s : State} (h : Inv s) (w : Word) : Inv (s.setSample w) :=
  ⟨h.params, h.memory, h.buffer, h.regs, h.fonts, h.status, h.surface⟩

theorem Inv.setRegs {s : State} (h : Inv s) (g : Regs) (hg : RegsOk g) : Inv { s with regs := g } :=
  ⟨h.params, h.memory, h.buffer, hg, h.fonts, h.status, h.surface⟩

theorem Inv.setPix {s : State} (h : Inv s) (pixels : List Color) (hl : pixels.length = s.pix.length) :
    Inv { s with pix := pixels } :=
  ⟨h.params, h.memory, ⟨hl.trans h.buffer.1, h.buffer.2⟩, h.regs, h.fonts, h.status, h.surface⟩

theorem Inv.emit {s : State} (h : Inv s) (e : SurfaceEvent) (he : EventOk s.params e) : Inv (s.emit e) := by
  refine ⟨h.params, h.memory, h.buffer, h.regs, h.fonts, h.status, fun e' he' => ?_⟩
  obtain hold | hnew := List.mem_append.1 he'
  · exact h.surface e' hold
  · exact List.mem_singleton.1 hnew ▸ he

/-- A new buffer of its size's pixels, within MAX_W and MAX_H (10 R49). -/
theorem Inv.setBuffer {s : State} (hs : Inv s) {w h : Nat} {pixels : List Color} (hl : pixels.length = w * h)
    (hw : w ≤ s.params.maxW) (hh : h ≤ s.params.maxH) : Inv (s.setBuffer w h pixels) := by
  obtain ⟨-, -, -, ⟨-, hmaxW⟩, ⟨-, hmaxH⟩⟩ := hs.params
  refine ⟨hs.params, hs.memory, ?_, hs.regs, hs.fonts, hs.status, hs.surface⟩
  unfold BufferOk
  rw [setBuffer_bufW s w h pixels (by omega), setBuffer_bufH s w h pixels (by omega)]
  exact ⟨hl, hw, hh⟩

/-- A put at POS of a buffer with pixels, within MAX_W and MAX_H (43 R175). -/
theorem Inv.put {s : State} (h : Inv s) {r : Raster} (hr : r.Ok) (hw : 1 ≤ r.w ∧ r.w ≤ s.params.maxW)
    (hh : 1 ≤ r.h ∧ r.h ≤ s.params.maxH) : Inv (s.put r) :=
  h.emit _ ⟨sext16_range _ (field_lt _ _ _), sext16_range _ (field_lt _ _ _), hw, hh, hr⟩

/-- Writing bytes of PAL, STAGE, TEXT or GLYPH, and taking none away. -/
theorem Inv.setMem {s : State} (h : Inv s) (m : Memory) (hwf : m.wf)
    (hmapped : ∀ c ∈ m, ∃ w, windowAt s.params c.1 = some w ∧ w ≠ .pix)
    (hheld : ∀ a, (s.mem.read a).isSome = true → (m.read a).isSome = true) : Inv { s with mem := m } := by
  obtain ⟨hvalid, hdefault⟩ := h.fonts
  refine ⟨h.params, ⟨hwf, hmapped⟩, h.buffer, h.regs, ⟨fun slot hs => ?_, hdefault⟩, h.status, h.surface⟩
  obtain ⟨hslot, hbytes⟩ := hvalid slot hs
  exact ⟨hslot, fun i hi => hheld _ (hbytes i hi)⟩

/-! ### The font store -/

/-- The 2048 bytes of a slot that exists stand in the GLYPH window (20 R62). -/
theorem windowAt_glyphAddr {p : Params} (hp : p.Legal) {slot a : Nat} (hslot : slot < p.fontSlots)
    (ha : glyphAddr slot ≤ a ∧ a < glyphAddr slot + 2048) : windowAt p a = some .glyph := by
  refine (windowAt_iff p hp a .glyph).2 ?_
  simp only [glyphAddr, Config.glyphBase, Config.fontBytes] at ha
  simp only [Window.Holds]
  omega

/-- A byte a fill covers is held after it. -/
theorem isSome_read_fill_covered (m : Memory) (a : Nat) (vs : List Byte) (i : Nat) (hi : i < vs.length) :
    ((m.fill a vs).read (a + i)).isSome = true := by
  rw [read_fill, if_pos (by omega)]
  simp [hi]

/-- A fill takes no byte away. -/
theorem isSome_read_fill (m : Memory) (a : Nat) (vs : List Byte) (b : Nat) (hb : (m.read b).isSome = true) :
    ((m.fill a vs).read b).isSome = true := by
  by_cases hc : a ≤ b ∧ b < a + vs.length
  · have covered := isSome_read_fill_covered m a vs (b - a) (by omega)
    rwa [Nat.add_sub_cancel' hc.1] at covered
  · rwa [read_fill, if_neg hc]

/-- Committing a font sets its slot's FONT_VALID bit and no other (40 R101). -/
theorem flagBit_commitFont (s : State) (slot : Nat) (bytes : List Byte) (k : Nat) (hslot : slot < 32) :
    flagBit (s.commitFont slot bytes).fontValid k = (flagBit s.fontValid k || decide (k = slot)) :=
  flagBit_or_pow s.fontValid slot k hslot

/-- A valid slot stays valid over a commit. -/
theorem slotValid_commitFont {s : State} {slot k : Nat} (bytes : List Byte) (hslot : slot < 32)
    (hk : s.slotValid k = true) : (s.commitFont slot bytes).slotValid k = true := by
  simp only [State.slotValid, Bool.and_eq_true] at hk ⊢
  exact ⟨hk.1, by rw [flagBit_commitFont s slot bytes k hslot, hk.2, Bool.true_or]⟩

/-- A commit makes its slot valid. -/
theorem slotValid_commitFont_same {s : State} {slot : Nat} (bytes : List Byte) (hslot : slot < 32)
    (hs : slot < s.params.fontSlots) : (s.commitFont slot bytes).slotValid slot = true := by
  simp only [State.slotValid, Bool.and_eq_true, decide_eq_true_eq]
  exact ⟨hs, by simp only [flagBit_commitFont s slot bytes slot hslot, decide_true, Bool.or_true]⟩

theorem FontsOk.commitFont {s : State} (h : FontsOk s) {slot : Nat} {bytes : List Byte} (hslot : slot < 32)
    (hs : slot < s.params.fontSlots) (hl : bytes.length = Config.fontBytes) : FontsOk (s.commitFont slot bytes) := by
  obtain ⟨hvalid, hdefault, -⟩ := h
  refine ⟨fun k hk => ?_, fun d hd => ?_, fun hd => ?_⟩
  · rw [flagBit_commitFont s slot bytes k hslot, Bool.or_eq_true, decide_eq_true_eq] at hk
    obtain hold | rfl := hk
    · obtain ⟨hk, hheld⟩ := hvalid k hold
      exact ⟨hk, fun i hi => isSome_read_fill _ _ _ _ (hheld i hi)⟩
    · exact ⟨hs, fun i hi => isSome_read_fill_covered _ _ _ i (hl ▸ hi)⟩
  · rw [commitFont_fontDefault] at hd
    cases hold : s.fontDefault with
    | some d' =>
      obtain rfl : d' = d := by simpa [hold] using hd
      exact slotValid_commitFont bytes hslot (hdefault d' hold)
    | none =>
      obtain rfl : BitVec.ofNat 8 slot = d := by simpa [hold] using hd
      have hd : (BitVec.ofNat 8 slot).toNat = slot := by simp only [BitVec.toNat_ofNat]; omega
      rw [hd]
      exact slotValid_commitFont_same bytes hslot hs
  · simp at hd

/-- A FONT_LOAD that succeeds (40 R101, R103) keeps the invariant. -/
theorem Inv.commitFont {s : State} (h : Inv s) {slot : Nat} (hs : slot < s.params.fontSlots) :
    Inv (s.commitFont slot s.stageTable) := by
  have hslot : slot < 32 := Nat.lt_of_lt_of_le hs h.params.1.2
  obtain ⟨hwf, hmapped⟩ := h.memory
  refine ⟨h.params, ⟨wf_fill _ _ _ hwf, fun c hc => ?_⟩, h.buffer, h.regs,
    h.fonts.commitFont hslot hs (stageTable_length s), h.status, h.surface⟩
  obtain hnew | hold := mem_fill _ _ _ c hc
  · rw [stageTable_length] at hnew
    exact ⟨.glyph, windowAt_glyphAddr h.params hs hnew, nofun⟩
  · exact hmapped c hold

/-! ### The engine's turn -/

/-- The writes of every command keep the invariant. -/
theorem Ends.inv {s : State} {i : Instr} {r : CmdResult} (he : Ends s i r) (h : Inv s) : Inv (r.base s) := by
  cases he with
  | raise e => exact h
  | nop => exact h
  | fontLoad hs => exact h.commitFont hs
  | measure w height => exact h.setOutSize w height
  | drawNothing w height => exact h.setOutSize w height
  | draw hr hw hh => exact ((h.setOutSize _ _).setBuffer hr hw.2 hh.2).put hr hw hh
  | sample w => exact h.setSample w
  | bufInit hr hw hh => exact h.setBuffer hr hw hh
  | blit hl => exact h.setPix _ hl
  | presentNothing => exact h
  | present hw hh =>
    obtain ⟨hl, hmaxW, hmaxH⟩ := h.buffer
    exact h.put (r := s.raster) hl ⟨hw, hmaxW⟩ ⟨hh, hmaxH⟩
  | clear =>
    exact h.emit _ ⟨sext16_range _ (field_lt _ _ _), sext16_range _ (field_lt _ _ _),
      Nat.le_of_lt_succ (field_lt _ _ _), Nat.le_of_lt_succ (field_lt _ _ _)⟩

theorem Inv.engineTurn {s t : State} (h : Inv s) (ht : engineTurn s = .next t) : Inv t := by
  obtain ⟨-, rfl⟩ | ⟨w, i, -, -, rfl⟩ | ⟨w, -, rfl⟩ := engineTurn_cases s t ht
  · exact h
  · rw [finish_eq]
    refine ((resultOf_ends i s).inv h).endCommand _ _ _ fun hn => ?_
    obtain ⟨herr, rfl | rfl⟩ := (resultOf_ends i s).noop hn
    · exact ⟨herr, .inl rfl⟩
    · exact ⟨herr, .inr rfl⟩
  · exact h.endCommand _ _ _ nofun

/-! ### The host's turn -/

/-- Masking a word again changes nothing: the reserved bits are 0 already (10 R53). -/
theorem mask_mask (v m : Word) : v &&& m &&& m = v &&& m := by rw [BitVec.and_assoc, BitVec.and_self]

/-- A host write stores only the defined fields of a register (10 R53). -/
theorem RegsOk.store {g : Regs} (h : RegsOk g) (r : Reg) (v : Word) : RegsOk (g.store r v) := by
  obtain ⟨h1, h2, h3, h4, h5, h6, h7, h8, h9⟩ := h
  cases r <;> simp only [RegsOk, Regs.store, mask_mask, h1, h2, h3, h4, h5, h6, h7, h8, h9, and_self]

theorem Inv.writeReg {s : State} (h : Inv s) (r : Reg) (v : Word) : Inv (s.writeReg r v) := by
  unfold State.writeReg
  split
  · exact h.handOver v
  · exact h.setRegs _ (h.regs.store r v)

/-- An accepted window write stores bytes of PAL, STAGE or TEXT (20 R68) and takes none away. -/
theorem Inv.writeBytes {s : State} (h : Inv s) {w : Width} {a : Nat} (v : Word) (ha : ¬ a < regEnd)
    (hok : writeOk s.params w a = true) : Inv { s with mem := s.mem.writeBytes a v w.bytes } := by
  obtain ⟨hwf, hmapped⟩ := h.memory
  refine h.setMem _ (wf_writeBytes _ _ _ _ hwf) (fun c hc => ?_) (fun b hb => ?_)
  · obtain ⟨k, hk, hck⟩ | hold := mem_writeBytes _ _ _ _ c hc
    · obtain ⟨-, x, hx, hwritable⟩ := writeOk_low s.params h.params w a ha hok k hk
      exact ⟨x, hck ▸ hx, by rintro rfl; cases hwritable⟩
    · exact hmapped c hold
  · rw [read_writeBytes]
    split
    · rfl
    · exact hb

theorem Inv.busWrite {s : State} (h : Inv s) (w : Width) (a : Nat) (v : Word) : Inv (s.busWrite w a v).1 := by
  obtain hsame | ⟨r, -, -, hreg⟩ | ⟨hok, ha, hmem⟩ := busWrite_cases s w a v
  · rwa [hsame]
  · rw [hreg]; exact h.writeReg r v
  · rw [hmem]; exact h.writeBytes v ha hok

/-- The events of the log a reset leaves are in range, the abandoned command's included (log 10). -/
theorem Inv.abandonedLog {s : State} (h : Inv s) : ∀ e ∈ s.abandonedLog, EventOk s.params e := by
  unfold State.abandonedLog
  split
  · split
    · rename_i t ht
      obtain ⟨-, hparams, -⟩ := engineTurn_keepsHostState s t ht
      exact hparams ▸ (h.engineTurn ht).surface
    · exact h.surface
    · exact h.surface
  · exact h.surface

/-- The block right after reset (70 R220) meets the invariant. -/
theorem inv_resetWith {p : Params} (hp : p.Legal) : Inv (State.resetWith p) where
  params := hp
  memory := ⟨List.Pairwise.nil, nofun⟩
  buffer :=
    have noWidth : (State.resetWith p).bufW = 0 := by simp [State.bufW, State.resetWith, field]
    have noHeight : (State.resetWith p).bufH = 0 := by simp [State.bufH, State.resetWith, field]
    ⟨by rw [noWidth, Nat.zero_mul]; rfl, noWidth ▸ Nat.zero_le _, noHeight ▸ Nat.zero_le _⟩
  regs := by show RegsOk Regs.reset; unfold RegsOk; decide
  fonts := ⟨fun slot hs => by simp [State.resetWith] at hs, nofun, fun _ => rfl⟩
  status := ⟨nofun, nofun⟩
  surface := nofun

/-- The reset input takes the block to its state after reset, but for the log. -/
theorem Inv.resetNow {s : State} (h : Inv s) : Inv s.resetNow :=
  have r := inv_resetWith h.params
  ⟨r.params, r.memory, r.buffer, r.regs, r.fonts, r.status, h.abandonedLog⟩

theorem Inv.hostTurn {s t : State} (h : Inv s) (ht : hostTurn s = .next t) : Inv t := by
  obtain ⟨-, rfl⟩ | ⟨w, a, rest, -, rfl⟩ | ⟨w, a, v, rest, -, -, rfl⟩ | ⟨rest, -, -, rfl⟩ | ⟨rest, -, -, rfl⟩ |
    ⟨rest, -, rfl⟩ := hostTurn_cases s t ht
  · exact h
  · exact h.interface _ _ _ _
  · exact ((h.interface rest _ _ _).busWrite w a.toNat v).interface _ _ _ _
  · exact h.interface _ _ _ _
  · exact h.interface _ _ _ _
  · exact (h.interface rest _ _ _).resetNow

/-- Settles O57: whichever agent has the turn, its turn keeps the invariant. -/
theorem stepKeepsInvariant : Obligations.StepKeepsInvariant := by
  intro s t h hstep
  obtain ⟨q, hengine | ⟨hhost, -⟩⟩ := step_cases s t hstep
  · exact (h.interface _ _ q _).engineTurn hengine
  · exact (h.interface _ _ q _).hostTurn hhost

end Sys2Proof.Machine
end

section
/-! PROOF. What a step does to FONT_VALID (10 R24) and to the surface log (10 R52). -/

namespace Sys2Proof.Machine

open Sys2Proof.Claims

/-! ### The host's accesses -/

@[simp] theorem busWrite_fontValid (s : State) (w : Width) (a : Nat) (v : Word) :
    (s.busWrite w a v).1.fontValid = s.fontValid := by
  obtain h | ⟨r, -, -, h⟩ | ⟨-, -, h⟩ := busWrite_cases s w a v <;> simp [h]

@[simp] theorem busWrite_surface (s : State) (w : Width) (a : Nat) (v : Word) :
    (s.busWrite w a v).1.surface = s.surface := by
  obtain h | ⟨r, -, -, h⟩ | ⟨-, -, h⟩ := busWrite_cases s w a v <;> simp [h]

/-- No access writes FONT_VALID or the surface log; the reset input is none (70 R220). -/
theorem hostTurn_fontValid_surface (s t : State) (h : hostTurn s = .next t) :
    (t.fontValid = s.fontValid ∧ t.surface = s.surface) ∨
    ∃ rest, s.host = .reset :: rest ∧ t = { s with host := rest }.resetNow := by
  obtain ⟨-, rfl⟩ | ⟨w, a, rest, -, rfl⟩ | ⟨w, a, v, rest, -, -, rfl⟩ | ⟨rest, -, -, rfl⟩ | ⟨rest, -, -, rfl⟩ | hreset :=
    hostTurn_cases s t h
  · exact .inl ⟨rfl, rfl⟩
  · exact .inl ⟨rfl, rfl⟩
  · exact .inl ⟨by simp, by simp⟩
  · exact .inl ⟨rfl, rfl⟩
  · exact .inl ⟨rfl, rfl⟩
  · exact .inr hreset

/-! ### FONT_VALID -/

/-- A command leaves FONT_VALID as it is, or is a FONT_LOAD that succeeds and sets its slot's bit (40 R101). -/
theorem Ends.fontValid {s : State} {i : Instr} {r : CmdResult} (he : Ends s i r) :
    (r.base s).fontValid = s.fontValid ∨
    ∃ slot, i = .fontLoad slot ∧ slot < s.params.fontSlots ∧ r.error = none ∧
      (r.base s).fontValid = s.fontValid ||| BitVec.ofNat 32 (2 ^ slot) := by
  cases he with
  | @fontLoad slot hs => exact .inr ⟨slot, rfl, hs, rfl, rfl⟩
  | _ => exact .inl rfl

/-- The engine leaves FONT_VALID as it is, or performs a FONT_LOAD that succeeds. -/
theorem engineTurn_fontValid (s t : State) (h : engineTurn s = .next t) :
    t.fontValid = s.fontValid ∨
    ∃ w slot, s.pending = some w ∧ decode w = .ok (.fontLoad slot) ∧ slot < s.params.fontSlots ∧ t.status.err = none ∧
      t.fontValid = s.fontValid ||| BitVec.ofNat 32 (2 ^ slot) := by
  obtain ⟨-, rfl⟩ | ⟨w, i, hw, hi, rfl⟩ | ⟨w, -, rfl⟩ := engineTurn_cases s t h
  · exact .inl rfl
  · rw [finish_eq]
    obtain hsame | ⟨slot, rfl, hs, herr, hset⟩ := (resultOf_ends i s).fontValid
    · exact .inl hsame
    · exact .inr ⟨w, slot, hw, hi, hs, herr, hset⟩
  · exact .inl rfl

/-- So does every step but the host's reset input. -/
theorem step_fontValid (s t : State) (h : step s = .next t) (hr : ¬ HostResets s) :
    t.fontValid = s.fontValid ∨
    ∃ w slot, s.pending = some w ∧ decode w = .ok (.fontLoad slot) ∧ slot < s.params.fontSlots ∧ t.status.err = none ∧
      t.fontValid = s.fontValid ||| BitVec.ofNat 32 (2 ^ slot) := by
  obtain ⟨q, hengine | ⟨hhost, hturn⟩⟩ := step_cases s t h
  · exact engineTurn_fontValid { s with sched := q } t hengine
  · obtain ⟨hsame, -⟩ | ⟨rest, hreset, -⟩ := hostTurn_fontValid_surface { s with sched := q } t hhost
    · exact .inl hsame
    · exact absurd ⟨rest, q, hturn _ rest hreset⟩ hr

theorem flagBit_or (v w : Word) (k : Nat) : flagBit (v ||| w) k = (flagBit v k || flagBit w k) := by
  simp only [flagBit_eq_getLsbD, BitVec.getLsbD_or]

/-- Settles O17: a step leaves FONT_VALID as it is, or adds the bit of the slot a FONT_LOAD filled. -/
theorem validBitsStay : Obligations.ValidBitsStay := by
  intro s t h hr k
  obtain hsame | ⟨w, slot, hw, hi, hs, herr, hset⟩ := step_fontValid s t h hr
  · rw [hsame]
    exact ⟨id, fun _ hclear hk => absurd hk (by simp [hclear])⟩
  · refine ⟨fun hk => by rw [hset, flagBit_or, hk, Bool.true_or], fun hp hclear hk => ⟨w, hw, ?_, herr⟩⟩
    rw [hset, flagBit_or_pow _ _ _ (Nat.lt_of_lt_of_le hs hp.1.2), hclear, Bool.false_or, decide_eq_true_eq] at hk
    exact hk ▸ hi

/-! ### The surface log -/

/-- The log extends that of `s` by at most one event, and by none while no command is pending. -/
def State.LogGrows (s : State) (log : List SurfaceEvent) : Prop :=
  (∃ l, log = s.surface ++ l ∧ l.length ≤ 1) ∧ (s.pending = none → log = s.surface)

theorem logGrows_same (s : State) : s.LogGrows s.surface := ⟨⟨[], by simp, by decide⟩, fun _ => rfl⟩

/-- A command appends at most one event: the put of a DRAW or PRESENT, or the request of a CLEAR. -/
theorem Ends.surface {s : State} {i : Instr} {r : CmdResult} (he : Ends s i r) :
    ∃ l, (r.base s).surface = s.surface ++ l ∧ l.length ≤ 1 := by
  cases he with
  | draw hr hw hh => exact ⟨[_], rfl, le_rfl⟩
  | present hw hh => exact ⟨[_], rfl, le_rfl⟩
  | clear => exact ⟨[_], rfl, le_rfl⟩
  | _ => exact ⟨[], (List.append_nil _).symm, Nat.zero_le 1⟩

theorem engineTurn_logGrows (s t : State) (h : engineTurn s = .next t) : s.LogGrows t.surface := by
  obtain ⟨-, rfl⟩ | ⟨w, i, hw, -, rfl⟩ | ⟨w, -, rfl⟩ := engineTurn_cases s t h
  · exact logGrows_same _
  · rw [finish_eq]
    exact ⟨(resultOf_ends i s).surface, fun hp => by simp [hp] at hw⟩
  · exact logGrows_same s

/-- A reset keeps the log, with the abandoned command's event or without it (log 10). -/
theorem abandonedLog_logGrows (s : State) : s.LogGrows s.abandonedLog := by
  unfold State.abandonedLog
  split
  · split
    · rename_i t ht
      exact engineTurn_logGrows s t ht
    · exact logGrows_same s
    · exact logGrows_same s
  · exact logGrows_same s

/-- Settles O58: the events of a step are those of one command, performed by the engine or abandoned by a reset. -/
theorem surfaceLogOnlyGrows : Obligations.SurfaceLogOnlyGrows := by
  intro s t h
  obtain ⟨q, hengine | ⟨hhost, -⟩⟩ := step_cases s t h
  · exact engineTurn_logGrows { s with sched := q } t hengine
  · obtain ⟨-, hsame⟩ | ⟨rest, -, rfl⟩ := hostTurn_fontValid_surface { s with sched := q } t hhost
    · exact (show s.LogGrows t.surface from hsame ▸ logGrows_same s)
    · exact abandonedLog_logGrows { s with sched := q, host := rest }

end Sys2Proof.Machine
end

section
/-! PROOF. The words the host reads: STATUS (10 R23), colours (10 R32), registers (10 R53) and pixels (10 R49). -/

namespace Sys2Proof.Machine

open Sys2Proof.Claims

/-! ### STATUS and colour words -/

theorem flagBit_of_field {w : Word} {k : Nat} {b : Bool} (h : field w k 1 = b.toNat) : flagBit w k = b := by
  cases b <;> simp [flagBit, h]

/-- Settles O51: the fields do not overlap, since BUSY, DONE and NOOP are at most 1 and ERR is at most 6. -/
theorem statusWordFields : Obligations.StatusWordFields := by
  intro s
  have hbusy := s.busy.toNat_le
  have hdone := s.status.done.toNat_le
  have hnoop := s.status.noop.toNat_le
  have herr := errCode_le s.status
  have hop := s.status.lastOp.isLt
  refine ⟨flagBit_of_field ?_, flagBit_of_field ?_, flagBit_of_field ?_, flagBit_of_field ?_, ?_, ?_, ?_⟩ <;>
    simp only [State.statusWord, field_ofNat, Bool.toNat_false] <;> omega

theorem color_colorWord (c : Color) : color (colorWord c) = c := by
  obtain ⟨r, g, b, a⟩ := c
  have hr := r.isLt
  have hg := g.isLt
  have hb := b.isLt
  have ha := a.isLt
  simp only [color, colorWord, field_ofNat, Color.mk.injEq]
  refine ⟨?_, ?_, ?_, ?_⟩ <;> apply BitVec.eq_of_toNat_eq <;> simp only [BitVec.toNat_ofNat] <;> omega

theorem colorWord_color (w : Word) : colorWord (color w) = w := by
  have hw := w.isLt
  apply BitVec.eq_of_toNat_eq
  simp only [color, colorWord, field, BitVec.toNat_ofNat]
  omega

/-- Settles O52: each channel is one byte of the word. -/
theorem colourWordsRoundTrip : Obligations.ColourWordsRoundTrip := ⟨color_colorWord, colorWord_color⟩

/-! ### A host access -/

/-- A host read only appends its answer. -/
theorem step_read {s : State} {w : Width} {a : Addr} {rest : List HostOp} {q : List Agent}
    (h : HostTurnAt s (.read w a) rest q) : step s = .next (Replied s rest q (s.busRead w a.toNat)) := by
  rw [step_hostTurnAt h]
  simp only [hostTurn, h.1]
  rfl

/-- A host write while BUSY = 0 leaves what the access leaves, and its answer. -/
theorem step_write {s : State} {w : Width} {a : Addr} {v : Word} {rest : List HostOp} {q : List Agent}
    (h : HostTurnAt s (.write w a v) rest q) (hb : s.busy = false) :
    let p := { s with host := rest, sched := q }.busWrite w a.toNat v
    step s = .next (p.1.answer p.2) := by
  rw [step_hostTurnAt h]
  simp only [hostTurn, h.1]
  exact if_neg (Bool.eq_false_iff.1 hb)

/-- While BUSY = 0, a read that gets no bus error returns its data. -/
theorem busRead_idle {s : State} {w : Width} {a : Nat} (hok : readOk s.params w a = true) (hb : s.busy = false) :
    s.busRead w a = .data (s.readData w a) := by
  simp [State.busRead, hok, hb]

/-! ### Registers -/

theorem regAt_lt {a : Nat} {r : Reg} (h : regAt a = some r) : a < regEnd := by
  have := regAt_mem a r h
  simp only [regEnd]
  omega

/-- While BUSY = 0, an aligned 32-bit read of a register returns its value. -/
theorem busRead_reg {s : State} {a : Nat} {r : Reg} (hr : regAt a = some r) (ha : a % 4 = 0) (hb : s.busy = false) :
    s.busRead .w32 a = .data (s.readReg r) := by
  rw [busRead_idle ((readOk_reg s.params .w32 a (regAt_lt hr)).2 ⟨rfl, ha⟩) hb]
  simp [State.readData, regAt_lt hr, hr]

/-- An aligned 32-bit write of a register is taken. -/
theorem busWrite_reg {s : State} {a : Nat} {r : Reg} (hr : regAt a = some r) (ha : a % 4 = 0) (v : Word) :
    s.busWrite .w32 a v = (s.writeReg r v, .ack) := by
  have hok : writeOk s.params .w32 a = true := by
    simp [writeOk, (readOk_reg s.params .w32 a (regAt_lt hr)).2 ⟨rfl, ha⟩, regAt_lt hr]
  simp [State.busWrite, hok, regAt_lt hr, hr]

/-- The map of the read-write registers: each has a register of its own, whose defined fields are those of 10 R26 to R44. -/
theorem rwRegisters_regAt {a : Nat} {m : Word} (h : (a, m) ∈ rwRegisters) :
    ∃ r, regAt a = some r ∧ a % 4 = 0 ∧ r.writeMask = m ∧ m ≠ 0 := by
  have table : ∀ p ∈ rwRegisters, (regAt p.1).map Reg.writeMask = some p.2 ∧ p.1 % 4 = 0 ∧ p.2 ≠ 0 := by decide
  obtain ⟨hmap, ha, hm⟩ := table _ h
  obtain ⟨r, hr, hmask⟩ := Option.map_eq_some_iff.1 hmap
  exact ⟨r, hr, ha, hmask, hm⟩

/-- The step of a host that writes a read-write register while BUSY = 0. -/
theorem step_writeRegister {s : State} {a : Addr} {r : Reg} {v : Word} {rest : List HostOp} {q : List Agent}
    (h : HostTurnAt s (.write .w32 a v) rest q) (hb : s.busy = false) (hr : regAt a.toNat = some r)
    (ha : a.toNat % 4 = 0) (hcmd : r ≠ .cmd) :
    step s = .next { Replied s rest q .ack with regs := s.regs.store r v } := by
  rw [step_write h hb, busWrite_reg hr ha, writeReg_other _ r v hcmd]
  rfl

/-- The step of a host that reads a register while BUSY = 0. -/
theorem step_readRegister {s : State} {a : Addr} {r : Reg} {rest : List HostOp} {q : List Agent}
    (h : HostTurnAt s (.read .w32 a) rest q) (hb : s.busy = false) (hr : regAt a.toNat = some r)
    (ha : a.toNat % 4 = 0) : step s = .next (Replied s rest q (.data (s.readReg r))) := by
  rw [step_read h, busRead_reg hr ha hb]

/-- A register with defined fields returns those of the word last stored (10 R53). -/
theorem readReg_store_same {s : State} {g : Regs} {r : Reg} {v : Word} (hs : s.regs = g.store r v)
    (h : r.writeMask ≠ 0) : s.readReg r = v &&& r.writeMask := by
  cases r <;> simp only [State.readReg, hs, Regs.store, mask_mask] <;> exact absurd rfl h

/-- A store to one register is seen at no other: register by register, the field read is not the one stored. -/
theorem readReg_store_other (s : State) {r r' : Reg} (v : Word) (h : r' ≠ r) :
    { s with regs := s.regs.store r v }.readReg r' = s.readReg r' := by
  cases r <;> cases r' <;> trivial

theorem runSteps_two {s u t : State} (h1 : step s = .next u) (h2 : step u = .next t) : runSteps 2 s = .next t := by
  have e1 : core.step s = .next u := h1
  have e2 : core.step u = .next t := h2
  have run : core.run 2 s = .next t := by simp only [Host.Core.run, e1, e2]
  exact run

/-- Settles O42: the write stores the defined fields, and the read that follows returns them. -/
theorem registersKeepTheirFields : Obligations.RegistersKeepTheirFields := by
  intro s a m v rest ha hb hq hhost
  obtain ⟨r, hr, hal, rfl, hm⟩ := rwRegisters_regAt ha
  have hcmd : r ≠ .cmd := by rintro rfl; exact hm rfl
  have hat : (BitVec.ofNat 24 a).toNat = a := by
    have hlt := regAt_lt hr
    simp only [regEnd] at hlt
    simp only [BitVec.toNat_ofNat]
    omega
  have hwrite := step_writeRegister (r := r) ⟨hhost, .inr ⟨hq, rfl, hb⟩⟩ hb (by rwa [hat]) (by rwa [hat]) hcmd
  have hread := step_readRegister (r := r) (rest := rest) (q := [])
    (s := { Replied s (.read .w32 (BitVec.ofNat 24 a) :: rest) [] .ack with regs := s.regs.store r v })
    ⟨rfl, .inr ⟨rfl, rfl, hb⟩⟩ hb (by rwa [hat]) (by rwa [hat])
  rw [readReg_store_same rfl hm] at hread
  refine ⟨_, runSteps_two hwrite hread, List.append_assoc _ _ _, ?_, fun r₁ r' hr₁ hne => ?_⟩
  · rw [← hq]
    rfl
  · obtain rfl : r = r₁ := Option.some.inj (hr.symm.trans hr₁)
    exact readReg_store_other s v hne

/-! ### Pixels -/

/-- The four channels in ascending address order are the colour word (10 R32, R49). -/
theorem littleEndian_channels (c : Color) :
    BitVec.ofNat 32 (littleEndian ((List.range 4).map (channel c))) = colorWord c := by
  have hrange : (List.range 4).map (channel c) = [c.r, c.g, c.b, c.a] := rfl
  rw [hrange, colorWord]
  congr 1
  simp only [littleEndian]
  omega

/-- Byte `k` of pixel `n` of the current buffer is channel `k` of its colour (10 R49). -/
theorem pixByte_channel {s : State} {n : Nat} {c : Color} (hn : n < s.bufW * s.bufH) (hc : s.pix[n]? = some c) {k : Nat}
    (hk : k < 4) : s.pixByte (4 * n + k) = some (channel c k) := by
  have hdiv : (4 * n + k) / 4 = n := by omega
  have hmod : (4 * n + k) % 4 = k := by omega
  rw [State.pixByte, if_pos (by omega), hdiv, hmod, hc]
  rfl

/-- The bytes of the current buffer's pixels stand in the PIX window (20 R62). -/
theorem windowAt_pixel {s : State} (h : Inv s) {n k : Nat} (hn : n < s.bufW * s.bufH) (hk : k < 4) :
    windowAt s.params (0x800000 + 4 * n + k) = some .pix := by
  obtain ⟨-, hw, hh⟩ := h.buffer
  have hsize : s.bufW * s.bufH ≤ s.params.maxW * s.params.maxH := Nat.mul_le_mul hw hh
  refine (windowAt_iff s.params h.params _ .pix).2 ?_
  simp only [Window.Holds, Nat.mul_assoc]
  omega

/-- A pixel's four bytes are mapped, aligned and held, so a 32-bit read of them is the colour word. -/
theorem busRead_pixel {s : State} (h : Inv s) (hb : s.busy = false) {n : Nat} {c : Color} (hn : n < s.bufW * s.bufH)
    (hc : s.pix[n]? = some c) : s.busRead .w32 (0x800000 + 4 * n) = .data (colorWord c) := by
  have hreg : ¬ 0x800000 + 4 * n < regEnd := by simp only [regEnd]; omega
  have hbyte : ∀ k < 4, s.readByte (0x800000 + 4 * n + k) = channel c k := fun k hk => by
    have hoff : 0x800000 + 4 * n + k - 0x800000 = 4 * n + k := by omega
    rw [State.readByte, byteAt_pix s _ (windowAt_pixel h hn hk), hoff, pixByte_channel hn hc hk]
    rfl
  have hok : readOk s.params .w32 (0x800000 + 4 * n) = true := by
    refine (readOk_window _ _ _ hreg).2 ⟨by simp only [Width.bytes]; omega, fun k hk => ?_⟩
    rw [windowAt_pixel h hn hk]
    rfl
  have hmap : (List.range 4).map (fun k => s.readByte (0x800000 + 4 * n + k)) = (List.range 4).map (channel c) :=
    List.map_congr_left fun k hk => hbyte k (List.mem_range.1 hk)
  rw [busRead_idle hok hb, State.readData, if_neg hreg, Width.bytes, hmap, littleEndian_channels]

/-- Settles O46: the pixel's index is in the buffer, and the read returns its four channels. -/
theorem pixWindowShowsThePixels : Obligations.PixWindowShowsThePixels := by
  intro s x y c a rest q h hb hx hy hc ha hturn
  rw [step_read hturn, ha, busRead_pixel h hb (pixel_index_lt _ _ x y hx hy) hc]

end Sys2Proof.Machine
end

section
/-! PROOF. A disabled effect's parameters have no influence (10 R31): what DRAW, MEASURE and BUF_INIT read of the registers
and of the memory is the same where the two differ at most in the parameters of disabled effects. -/

namespace Sys2Proof.Machine

/-- The state with other read-write registers and other memory. -/
def State.withParameters (s : State) (g : Regs) (m : Memory) : State := { s with regs := g, mem := m }

@[simp] theorem withParameters_params (s : State) (g : Regs) (m : Memory) : (s.withParameters g m).params = s.params := rfl
@[simp] theorem withParameters_regs (s : State) (g : Regs) (m : Memory) : (s.withParameters g m).regs = g := rfl

theorem withParameters_setOutSize (s : State) (g : Regs) (m : Memory) (w h : Nat) :
    (s.withParameters g m).setOutSize w h = (s.setOutSize w h).withParameters g m := rfl

theorem withParameters_setBuffer (s : State) (g : Regs) (m : Memory) (w h : Nat) (pixels : List Color) :
    (s.withParameters g m).setBuffer w h pixels = (s.setBuffer w h pixels).withParameters g m := rfl

/-- A command's result, with a change made to the state it leaves. -/
def CmdResult.map (f : State → State) : CmdResult → CmdResult
  | .ok t => .ok (f t)
  | .noop t => .noop (f t)
  | .raise e => .raise e

/-- The end of a command does not touch the registers and the memory its writes leave. -/
theorem finish_withParameters (op : Byte) (s : State) (g : Regs) (m : Memory) (r : CmdResult) :
    finish op (s.withParameters g m) (r.map (·.withParameters g m)) = (finish op s r).withParameters g m := by
  cases r <;> rfl

end Sys2Proof.Machine

namespace Sys2Proof.Claims.DifferWhereDisabled

open Sys2Proof.Machine

variable {s : State} {g : Regs} {m : Memory}

/-! ### The registers that no effect governs -/

theorem selSlot (h : DifferWhereDisabled s g m) : g.selSlot = s.regs.selSlot := (congrArg Regs.selSlot h.1).trans rfl

theorem useDefault (h : DifferWhereDisabled s g m) : g.useDefault = s.regs.useDefault := (congrArg Regs.useDefault h.1).trans rfl

theorem textChars (h : DifferWhereDisabled s g m) : g.textChars = s.regs.textChars := (congrArg Regs.textChars h.1).trans rfl

theorem posX (h : DifferWhereDisabled s g m) : g.posX = s.regs.posX := (congrArg Regs.posX h.1).trans rfl

theorem posY (h : DifferWhereDisabled s g m) : g.posY = s.regs.posY := (congrArg Regs.posY h.1).trans rfl

theorem scaleX (h : DifferWhereDisabled s g m) : g.scaleX = s.regs.scaleX := (congrArg Regs.scaleX h.1).trans rfl

theorem scaleY (h : DifferWhereDisabled s g m) : g.scaleY = s.regs.scaleY := (congrArg Regs.scaleY h.1).trans rfl

theorem colorFg (h : DifferWhereDisabled s g m) : g.colorFg = s.regs.colorFg := (congrArg Regs.colorFg h.1).trans rfl

theorem reqW (h : DifferWhereDisabled s g m) : g.reqW = s.regs.reqW := (congrArg Regs.reqW h.1).trans rfl

theorem reqH (h : DifferWhereDisabled s g m) : g.reqH = s.regs.reqH := (congrArg Regs.reqH h.1).trans rfl

theorem bgEn (h : DifferWhereDisabled s g m) : g.bgEn = s.regs.bgEn := (congrArg Regs.bgEn h.1).trans rfl

theorem outlineEn (h : DifferWhereDisabled s g m) : g.outlineEn = s.regs.outlineEn := (congrArg Regs.outlineEn h.1).trans rfl

theorem shadowEn (h : DifferWhereDisabled s g m) : g.shadowEn = s.regs.shadowEn := (congrArg Regs.shadowEn h.1).trans rfl

theorem gradEn (h : DifferWhereDisabled s g m) : g.gradEn = s.regs.gradEn := (congrArg Regs.gradEn h.1).trans rfl

/-! ### The registers and the bytes of an enabled effect -/

theorem colorBg (h : DifferWhereDisabled s g m) (he : s.regs.bgEn = true) : g.colorBg = s.regs.colorBg := by
  obtain ⟨-, background, -⟩ := h
  exact background he

theorem outline (h : DifferWhereDisabled s g m) (he : s.regs.outlineEn = true) :
    g.outline = s.regs.outline ∧ g.colorOutline = s.regs.colorOutline := by
  obtain ⟨-, -, outline, -⟩ := h
  exact outline he

theorem shadow (h : DifferWhereDisabled s g m) (he : s.regs.shadowEn = true) :
    g.shadow = s.regs.shadow ∧ g.colorShadow = s.regs.colorShadow := by
  obtain ⟨-, -, -, shadow, -⟩ := h
  exact shadow he

theorem gradient (h : DifferWhereDisabled s g m) (he : s.regs.gradEn = true) :
    g.palN = s.regs.palN ∧ g.gradO = s.regs.gradO := by
  obtain ⟨-, -, -, -, gradient, -⟩ := h
  obtain ⟨hcount, hoffset⟩ := gradient he
  simp only [Regs.palN, Regs.gradO, hcount, hoffset, and_self]

/-- A byte outside PAL, or of PAL while the gradient is enabled, reads as before, held or free. -/
theorem byteIn (h : DifferWhereDisabled s g m) {a : Nat} (ha : s.regs.gradEn = true ∨ 0x1000 ≤ a) :
    (s.withParameters g m).byteIn a = s.byteIn a := by
  obtain ⟨-, -, -, -, -, memory⟩ := h
  exact congrArg (Option.getD · (Config.freeByte s.draws a)) (memory a ha)

theorem textChar (h : DifferWhereDisabled s g m) (k : Nat) : (s.withParameters g m).textChar k = s.textChar k :=
  congrArg BitVec.toNat (h.byteIn (.inr (by simp only [Config.textBase]; omega)))

theorem glyphRow (h : DifferWhereDisabled s g m) (f c r : Nat) :
    (s.withParameters g m).glyphRow f c r = s.glyphRow f c r :=
  h.byteIn (.inr (by simp only [glyphAddr, Config.glyphBase]; omega))

theorem palette (h : DifferWhereDisabled s g m) (he : s.regs.gradEn = true) :
    (s.withParameters g m).palette = s.palette := by
  have hword : ∀ e, (s.withParameters g m).palWord e = s.palWord e := fun e => by
    simp only [State.palWord, h.byteIn (.inl he)]
  simp only [State.palette, withParameters_regs, (h.gradient he).1, hword]

/-! ### What the commands compute -/

theorem fillColor (h : DifferWhereDisabled s g m) : g.fillColor = s.regs.fillColor :=
  ite_congr (by rw [h.bgEn]) (fun he => by rw [h.colorBg he]) fun _ => rfl

/-- A disabled outline has thickness 0, and a disabled shadow no offset (43 R160). -/
theorem effective (h : DifferWhereDisabled s g m) : g.effective = s.regs.effective := by
  have ht : (if g.outlineEn then g.outlineT else 0) = if s.regs.outlineEn then s.regs.outlineT else 0 :=
    ite_congr (by rw [h.outlineEn]) (fun he => congrArg (field · 0 8) (h.outline he).1) fun _ => rfl
  have hdx : (if g.shadowEn then g.shadowDX else 0) = if s.regs.shadowEn then s.regs.shadowDX else 0 :=
    ite_congr (by rw [h.shadowEn]) (fun he => congrArg (sext 8 <| field · 0 8) (h.shadow he).1) fun _ => rfl
  have hdy : (if g.shadowEn then g.shadowDY else 0) = if s.regs.shadowEn then s.regs.shadowDY else 0 :=
    ite_congr (by rw [h.shadowEn]) (fun he => congrArg (sext 8 <| field · 8 8) (h.shadow he).1) fun _ => rfl
  simp only [Regs.effective, h.scaleX, h.scaleY, ht, hdx, hdy]

/-- The foreground is COLOR_FG where the gradient is disabled, whatever the palette (43 R165). -/
theorem fgSource (h : DifferWhereDisabled s g m) (height : Nat) :
    (s.withParameters g m).fgSource height = s.fgSource height := by
  simp only [State.fgSource, withParameters_regs, h.gradEn, h.colorFg]
  by_cases he : s.regs.gradEn = true
  · rw [(h.gradient he).1, (h.gradient he).2, h.palette he]
  · simp only [he, Bool.false_eq_true, false_and, if_false]

/-- A disabled outline or shadow is no layer (43 R167). -/
theorem paint (h : DifferWhereDisabled s g m) (height : Nat) :
    (s.withParameters g m).paint height = s.paint height := by
  have houtline : (if g.outlineEn then some (color g.colorOutline) else none) =
      if s.regs.outlineEn then some (color s.regs.colorOutline) else none :=
    ite_congr (by rw [h.outlineEn]) (fun he => by rw [(h.outline he).2]) fun _ => rfl
  have hshadow : (if g.shadowEn then some (color g.colorShadow) else none) =
      if s.regs.shadowEn then some (color s.regs.colorShadow) else none :=
    ite_congr (by rw [h.shadowEn]) (fun he => by rw [(h.shadow he).2]) fun _ => rfl
  rw [State.paint, State.paint, Paint.mk.injEq]
  exact ⟨h.effective, houtline, hshadow, h.fgSource height⟩

theorem drawn (h : DifferWhereDisabled s g m) (f : Nat) : (s.withParameters g m).drawn f = s.drawn f := by
  have hglyph : ∀ k, (s.withParameters g m).glyphRow f k = s.glyphRow f k := fun k => funext (h.glyphRow f k)
  simp only [State.drawn, withParameters_regs, h.paint, hglyph, h.textChar, h.effective, h.textChars, h.fillColor]

theorem resolveFont (h : DifferWhereDisabled s g m) : (s.withParameters g m).resolveFont = s.resolveFont := by
  simp only [State.resolveFont, withParameters_regs, h.selSlot, h.useDefault]
  rfl

/-- The palette's length counts only where the gradient is enabled (41 R124). -/
theorem paletteTooLong (h : DifferWhereDisabled s g m) :
    (s.regs.gradEn = true ∧ (s.withParameters g m).paletteTooLong = true) =
      (s.regs.gradEn = true ∧ s.paletteTooLong = true) := by
  refine propext (and_congr_right fun he => ?_)
  simp only [State.paletteTooLong, withParameters_regs, withParameters_params, (h.gradient he).1]

theorem put (h : DifferWhereDisabled s g m) {t : State} (ht : t.regs = s.regs) (r : Raster) :
    (t.withParameters g m).put r = (t.put r).withParameters g m := by
  simp only [State.put, State.emit, State.withParameters, ht, h.posX, h.posY]

/-! ### The commands -/

theorem measureResult (h : DifferWhereDisabled s g m) :
    Machine.measureResult (s.withParameters g m) = (Machine.measureResult s).map (·.withParameters g m) := by
  simp only [Machine.measureResult, withParameters_regs, withParameters_setOutSize, h.effective, h.textChars,
    CmdResult.map]

theorem bufInitResult (h : DifferWhereDisabled s g m) :
    Machine.bufInitResult (s.withParameters g m) = (Machine.bufInitResult s).map (·.withParameters g m) := by
  simp only [Machine.bufInitResult, withParameters_regs, withParameters_params, withParameters_setBuffer, h.reqW, h.reqH,
    h.fillColor]
  split_ifs
  · rfl
  · rfl

theorem drawResult (h : DifferWhereDisabled s g m) :
    Machine.drawResult (s.withParameters g m) = (Machine.drawResult s).map (·.withParameters g m) := by
  simp only [Machine.drawResult, h.resolveFont]
  cases s.resolveFont with
  | none => rfl
  | some f =>
    simp only [withParameters_regs, withParameters_params, withParameters_setOutSize, withParameters_setBuffer,
      h.effective, h.textChars, h.gradEn, h.paletteTooLong, h.drawn]
    split_ifs
    · rfl
    · rfl
    · rfl
    · rfl
    · exact congrArg CmdResult.ok (h.put (t := (s.setOutSize _ _).setBuffer _ _ _) rfl _)

theorem resultOf (h : DifferWhereDisabled s g m) {i : Instr} (hi : i = .draw ∨ i = .measure ∨ i = .bufInit) :
    Machine.resultOf i (s.withParameters g m) = (Machine.resultOf i s).map (·.withParameters g m) := by
  obtain rfl | rfl | rfl := hi
  · exact h.drawResult
  · exact h.measureResult
  · exact h.bufInitResult

end Sys2Proof.Claims.DifferWhereDisabled

namespace Sys2Proof.Machine

open Sys2Proof.Claims

/-- Settles O39: such a command's own rule gives the same result, and so does its end. -/
theorem disabledEffectsAreIgnored : Obligations.DisabledEffectsAreIgnored := by
  intro s t i g m hi h ht
  rw [exec_eq_finish] at ht
  cases ht
  have hu := exec_eq_finish i (s.withParameters g m)
  rwa [h.resultOf hi, finish_withParameters] at hu

end Sys2Proof.Machine
end

section
/-! PROOF. The host's accesses: the read-only registers and the values of all registers (20 R68, 10 R53), bus errors (20 R63,
R67, R68), the byte order of the memory windows (20 R65), and reads, which have no side effect (20 R69, R70). -/

namespace Sys2Proof.Machine

open Sys2Proof.Claims

/-! ### The registers -/

/-- A register with no defined field to write keeps its value: the host's write is ignored (20 R68). -/
theorem store_readOnly (g : Regs) {r : Reg} (v : Word) (h : r.writeMask = 0) : g.store r v = g := by
  cases r <;> trivial

/-- The map of the read-only registers: each has a register of its own, with no field to write, and CMD is none of them. -/
theorem readOnlyRegisters_regAt {a : Nat} (h : a ∈ readOnlyRegisters) :
    ∃ r, regAt a = some r ∧ a % 4 = 0 ∧ r.writeMask = 0 ∧ r ≠ .cmd := by
  have table : ∀ b ∈ readOnlyRegisters, (regAt b).map Reg.writeMask = some 0 ∧ b % 4 = 0 ∧ regAt b ≠ some .cmd := by
    decide
  obtain ⟨hmap, ha, hcmd⟩ := table a h
  obtain ⟨r, hr, hmask⟩ := Option.map_eq_some_iff.1 hmap
  exact ⟨r, hr, ha, hmask, fun hrc => hcmd (hrc ▸ hr)⟩

/-- Every row of the table of read values stands at a register's address and gives the value that register reads. -/
theorem registerValues_regAt {s : State} {a : Nat} {v : Word} (h : (a, v) ∈ registerValues s) :
    ∃ r, regAt a = some r ∧ a % 4 = 0 ∧ s.readReg r = v := by
  have table : (registerValues s).map (fun p => ((regAt p.1).map s.readReg, p.1 % 4)) =
      (registerValues s).map fun p => (some p.2, 0) := by
    simp only [registerValues, List.map_cons, List.map_nil]
    rfl
  obtain ⟨hmap, ha⟩ := Prod.mk.inj (List.map_inj_left.1 table _ h)
  obtain ⟨r, hr, hv⟩ := Option.map_eq_some_iff.1 hmap
  exact ⟨r, hr, ha, hv⟩

/-- A register's address fits the aperture's 24 bits. -/
theorem toNat_regAddr {a : Nat} {r : Reg} (h : regAt a = some r) : (BitVec.ofNat 24 a).toNat = a := by
  have hlt := regAt_lt h
  simp only [regEnd] at hlt
  simp only [BitVec.toNat_ofNat]
  omega

/-- `step_readRegister` with the address given as a number. -/
theorem step_readRegister_ofNat {s : State} {a : Nat} {r : Reg} {rest : List HostOp} {q : List Agent}
    (h : HostTurnAt s (.read .w32 (BitVec.ofNat 24 a)) rest q) (hb : s.busy = false) (hr : regAt a = some r)
    (ha : a % 4 = 0) : step s = .next (Replied s rest q (.data (s.readReg r))) :=
  step_readRegister h hb (by rwa [toNat_regAddr hr]) (by rwa [toNat_regAddr hr])

/-- FONT_VALID reads the bits of the slots that exist, and 0 above them (10 R24). -/
theorem flagBit_fontValidWord (s : State) {k : Nat} (hk : k < 32) :
    flagBit s.fontValidWord k = (decide (k < s.params.fontSlots) && flagBit s.fontValid k) := by
  simp only [State.fontValidWord, flagBit_eq_getLsbD, BitVec.getLsbD_and, BitVec.getLsbD_ofNat,
    Nat.testBit_two_pow_sub_one, hk, decide_true, Bool.true_and, Bool.and_comm]

theorem fontDefaultWord_none {s : State} (h : s.fontDefault = none) : s.fontDefaultWord = 0 := by
  rw [State.fontDefaultWord, h]

/-- With a default font, FONT_DEFAULT reads DVALID = 1 in bit 31 and the slot in [7:0] (10 R25). -/
theorem fontDefaultWord_some {s : State} {d : Byte} (h : s.fontDefault = some d) :
    flagBit s.fontDefaultWord 31 = true ∧ field s.fontDefaultWord 8 23 = 0 ∧ field s.fontDefaultWord 0 8 = d.toNat := by
  have hd := d.isLt
  have hword : s.fontDefaultWord = BitVec.ofNat 32 (0x80000000 + d.toNat) := by rw [State.fontDefaultWord, h]
  rw [hword]
  refine ⟨flagBit_of_field ?_, ?_, ?_⟩ <;> simp only [field_ofNat, Bool.toNat_true] <;> omega

/-- Settles O43: a write stores no field of a read-only register, and a read returns the register of the map. -/
theorem readOnlyRegistersIgnoreWrites : Obligations.ReadOnlyRegistersIgnoreWrites := by
  refine ⟨fun s a v rest q ha hb h => ?_, fun s a rest q hb h => ⟨fun v hv => ?_, ?_, ?_, ?_⟩⟩
  · obtain ⟨r, hr, hal, hmask, hcmd⟩ := readOnlyRegisters_regAt ha
    rw [step_writeRegister h hb (by rwa [toNat_regAddr hr]) (by rwa [toNat_regAddr hr]) hcmd, store_readOnly _ v hmask]
    rfl
  · obtain ⟨r, hr, hal, rfl⟩ := registerValues_regAt hv
    exact step_readRegister_ofNat h hb hr hal
  · rintro rfl
    exact ⟨_, step_readRegister_ofNat (r := .fontValid) h hb rfl rfl, fun k hk => flagBit_fontValidWord s hk⟩
  · rintro rfl hnone
    rw [step_readRegister_ofNat (r := .fontDefault) h hb rfl rfl, State.readReg, fontDefaultWord_none hnone]
  · rintro d rfl hd
    exact ⟨_, step_readRegister_ofNat (r := .fontDefault) h hb rfl rfl, fontDefaultWord_some hd⟩

/-! ### Bus errors -/

/-- An address is mapped exactly when a window of the map holds it (20 R62, R67). -/
theorem mapped_iff_windowAt {p : Params} (hp : p.Legal) (a : Nat) : Mapped p a ↔ (windowAt p a).isSome = true := by
  simp only [Option.isSome_iff_exists, windowAt_iff p hp a]
  constructor
  · rintro (⟨e, he, hlo, hhi⟩ | ⟨i, hi, rfl⟩ | ⟨k, hk, rfl⟩ | ⟨slot, hslot, i, hi, rfl⟩ | ⟨j, hj, rfl⟩)
    · exact ⟨.pal, by simp only [Window.Holds]; omega⟩
    · exact ⟨.stage, by simp only [Window.Holds]; omega⟩
    · exact ⟨.text, by simp only [Window.Holds]; omega⟩
    · exact ⟨.glyph, by simp only [Window.Holds]; omega⟩
    · exact ⟨.pix, by simp only [Window.Holds]; omega⟩
  · rintro ⟨w, hw⟩
    cases w with
    | pal =>
      obtain ⟨hlo, hhi⟩ := hw
      exact .inl ⟨(a - 0x100) / 4, by omega, by omega, by omega⟩
    | stage =>
      obtain ⟨hlo, hhi⟩ := hw
      exact .inr (.inl ⟨a - 0x1000, by omega, by omega⟩)
    | text =>
      obtain ⟨hlo, hhi⟩ := hw
      exact .inr (.inr (.inl ⟨a - 0x2000, by omega, by omega⟩))
    | glyph =>
      obtain ⟨hlo, hhi⟩ := hw
      exact .inr (.inr (.inr (.inl ⟨(a - 0x10000) / 2048, by omega, (a - 0x10000) % 2048, by omega, by omega⟩)))
    | pix =>
      obtain ⟨hlo, hhi⟩ := hw
      exact .inr (.inr (.inr (.inr ⟨a - 0x800000, by omega, by omega⟩)))

/-- The check of a read accepts every access that is not bad (20 R63, R67). -/
theorem readOk_iff_not_bad {p : Params} (hp : p.Legal) (w : Width) (a : Nat) :
    readOk p w a = true ↔ ¬ BadAccess p w a := by
  by_cases ha : a < 0x70
  · rw [readOk_reg p w a ha, BadAccess]
    simp [ha]
  · rw [readOk_window p w a ha, BadAccess]
    simp [ha, Nat.le_of_not_lt ha, mapped_iff_windowAt hp, Option.isSome_iff_ne_none]

/-- Of the accesses that are not bad, the check of a write accepts those below GLYPH and PIX (20 R68). -/
theorem writeOk_iff_not_bad {p : Params} (hp : p.Legal) (w : Width) (a : Nat) :
    writeOk p w a = true ↔ ¬ (BadAccess p w a ∨ 0x10000 ≤ a) := by
  rw [not_or, ← readOk_iff_not_bad hp, writeOk, Bool.and_eq_true]
  refine and_congr_right fun hok => ?_
  by_cases ha : a < 0x70
  · simp only [regEnd, ha, decide_true, Bool.true_or, true_iff]
    omega
  · obtain ⟨-, hmap⟩ := (readOk_window p w a ha).1 hok
    obtain ⟨x, hx⟩ := Option.isSome_iff_exists.1 (hmap 0 (bytes_pos w))
    have hlow := writable_iff_low p hp a x hx
    simp only [regEnd, ha, decide_false, Bool.false_or, (show windowAt p a = some x from hx), Option.map_some,
      Option.getD_some, hlow, Nat.not_le]

/-- A read that fails its check is a bus error while BUSY = 0, and always at ID and STATUS. -/
theorem busRead_error {s : State} {w : Width} {a : Nat} (hok : ¬ readOk s.params w a = true)
    (hb : s.busy = false ∨ alwaysDefined a = true) : s.busRead w a = .busError := by
  obtain hb | hb := hb <;> simp [State.busRead, hok, hb]

theorem busWrite_error {s : State} {w : Width} {a : Nat} (v : Word) (hok : ¬ writeOk s.params w a = true) :
    s.busWrite w a v = (s, .busError) := if_neg hok

/-- The step of a host whose write fails its check, while BUSY = 0 (20 R64). -/
theorem step_write_error {s : State} {w : Width} {a : Addr} {v : Word} {rest : List HostOp} {q : List Agent}
    (h : HostTurnAt s (.write w a v) rest q) (hb : s.busy = false) (hok : ¬ writeOk s.params w a.toNat = true) :
    step s = .next (Replied s rest q .busError) := by
  rw [step_write h hb, busWrite_error (s := { s with host := rest, sched := q }) v hok]
  rfl

theorem busWrite_ack {s : State} {w : Width} {a : Nat} (v : Word) (hok : writeOk s.params w a = true) :
    (s.busWrite w a v).2 = .ack := by
  rw [State.busWrite, if_pos hok]
  split
  · split <;> rfl
  · rfl

@[simp] theorem busWrite_replies (s : State) (w : Width) (a : Nat) (v : Word) :
    (s.busWrite w a v).1.replies = s.replies := by
  obtain h | ⟨r, -, -, h⟩ | ⟨-, -, h⟩ := busWrite_cases s w a v <;> simp [h]

/-- A write that passes its check is acknowledged. -/
theorem step_write_ack {s : State} {w : Width} {a : Addr} {v : Word} {rest : List HostOp} {q : List Agent}
    (h : HostTurnAt s (.write w a v) rest q) (hb : s.busy = false) (hok : writeOk s.params w a.toNat = true) :
    ∃ t, step s = .next t ∧ t.replies = s.replies ++ [.ack] :=
  ⟨_, step_write h hb, by
    rw [answer_replies, busWrite_replies, busWrite_ack (s := { s with host := rest, sched := q }) v hok]⟩

/-- Settles O44: the machine's checks are the rules' (20 R63, R67, R68), and an access that fails its check is answered
without a change. -/
theorem busErrorsChangeNothing : Obligations.BusErrorsChangeNothing := by
  intro s w a v rest q hp hb
  refine ⟨fun h => ⟨fun hbad => ?_, fun hgood => ?_⟩, fun h => ⟨fun hbad => ?_, fun hgood => ?_⟩⟩
  · rw [step_read h, busRead_error (fun hok => (readOk_iff_not_bad hp w _).1 hok hbad) (.inl hb)]
  · exact ⟨_, (step_read h).trans (by rw [busRead_idle ((readOk_iff_not_bad hp w _).2 hgood) hb])⟩
  · exact step_write_error h hb fun hok => (writeOk_iff_not_bad hp w _).1 hok hbad
  · exact step_write_ack h hb ((writeOk_iff_not_bad hp w _).2 hgood)

/-! ### The byte order of the memory windows -/

/-- The byte held at an address depends on the memory at that address only. -/
theorem byteAt_setMem (s : State) (m : Memory) {a : Nat} (h : m.read a = s.mem.read a) :
    { s with mem := m }.byteAt a = s.byteAt a := by
  simp only [State.byteAt, h]
  rfl

theorem busWrite_window {s : State} {w : Width} {a : Nat} (v : Word) (ha : ¬ a < regEnd)
    (hok : writeOk s.params w a = true) :
    s.busWrite w a v = ({ s with mem := s.mem.writeBytes a v w.bytes }, .ack) := by
  rw [State.busWrite, if_pos hok, if_neg ha]

/-- An accepted write beyond the registers stores its bytes and touches nothing else (20 R65). -/
theorem step_writeWindow {s : State} {w : Width} {a : Addr} {v : Word} {rest : List HostOp} {q : List Agent}
    (h : HostTurnAt s (.write w a v) rest q) (hb : s.busy = false) (ha : ¬ a.toNat < regEnd)
    (hok : writeOk s.params w a.toNat = true) :
    step s = .next { Replied s rest q .ack with mem := s.mem.writeBytes a.toNat v w.bytes } := by
  rw [step_write h hb, busWrite_window (s := { s with host := rest, sched := q }) v ha hok]
  rfl

theorem byteOfWord_eq (v : Word) (k : Nat) : byteOfWord v k = BitVec.ofNat 8 (v.toNat / 256 ^ k) := by
  apply BitVec.eq_of_toNat_eq
  simp only [byteOfWord, field, BitVec.toNat_ofNat, Nat.pow_mul, Nat.mod_mod, Nat.reducePow]

/-- After an accepted window write, byte `k` of the word is held at the address + `k`. -/
theorem byteAt_writeBytes {s : State} (hp : s.params.Legal) {w : Width} {a : Nat} (v : Word) (ha : ¬ a < regEnd)
    (hok : writeOk s.params w a = true) {k : Nat} (hk : k < w.bytes) :
    { s with mem := s.mem.writeBytes a v w.bytes }.byteAt (a + k) = some (BitVec.ofNat 8 (v.toNat / 256 ^ k)) := by
  obtain ⟨-, x, hx, hwritable⟩ := writeOk_low s.params hp w a ha hok k hk
  rw [byteAt_writable { s with mem := s.mem.writeBytes a v w.bytes } _ x hx hwritable, read_writeBytes,
    if_pos (by omega), Nat.add_sub_cancel_left, byteOfWord_eq]

/-- Byte `k` of a little-endian list has the weight 256^k (20 R65). -/
theorem littleEndian_map_range (b : Nat → Byte) (n : Nat) :
    littleEndian ((List.range n).map b) = ∑ k ∈ Finset.range n, (b k).toNat * 256 ^ k := by
  induction n generalizing b with
  | zero => rfl
  | succ n ih =>
    have hshift : ((b ∘ Nat.succ) : Nat → Byte) = fun k => b (k + 1) := rfl
    rw [List.range_succ_eq_map, List.map_cons, List.map_map, littleEndian, hshift, ih, Finset.sum_range_succ',
      Finset.mul_sum, pow_zero, mul_one, add_comm]
    exact congrArg (· + _) (Finset.sum_congr rfl fun k _ => by ring)

/-- An aligned access whose bytes are all held passes its check. -/
theorem readOk_held {s : State} {w : Width} {a : Nat} {b : Nat → Byte} (ha : ¬ a < regEnd) (hal : a % w.bytes = 0)
    (h : ∀ k < w.bytes, s.byteAt (a + k) = some (b k)) : readOk s.params w a = true :=
  (readOk_window _ _ _ ha).2 ⟨hal, fun k hk => byteAt_mapped s _ _ (h k hk)⟩

/-- The data of a read of held bytes (20 R65). -/
theorem readData_held {s : State} {w : Width} {a : Nat} {b : Nat → Byte} (ha : ¬ a < regEnd)
    (h : ∀ k < w.bytes, s.byteAt (a + k) = some (b k)) :
    s.readData w a = BitVec.ofNat 32 (∑ k ∈ Finset.range w.bytes, (b k).toNat * 256 ^ k) := by
  have hbytes : (List.range w.bytes).map (fun k => s.readByte (a + k)) = (List.range w.bytes).map b :=
    List.map_congr_left fun k hk => by rw [State.readByte, h k (List.mem_range.1 hk), Option.getD_some]
  rw [State.readData, if_neg ha, hbytes, littleEndian_map_range]

/-- Settles O45: an accepted window write stores the bytes of the word and no other, and a read sums the bytes held. -/
theorem hostAccessesAreLittleEndian : Obligations.HostAccessesAreLittleEndian := by
  refine ⟨fun s w a v rest q hp hb h hgood hlo hhi => ?_, fun s w a b rest q hb h hal hlo hheld => ?_⟩
  · have hreg : ¬ a.toNat < regEnd := Nat.not_lt.2 hlo
    have hok : writeOk s.params w a.toNat = true :=
      (writeOk_iff_not_bad hp w _).2 (not_or.2 ⟨hgood, Nat.not_le.2 hhi⟩)
    exact ⟨_, step_writeWindow h hb hreg hok, rfl, fun k hk => byteAt_writeBytes hp v hreg hok hk,
      fun b hout => byteAt_setMem s _ ((read_writeBytes ..).trans (if_neg hout))⟩
  · have hreg : ¬ a.toNat < regEnd := Nat.not_lt.2 hlo
    rw [step_read h, busRead_idle (readOk_held hreg hal hheld) hb, readData_held hreg hheld]

/-! ### Reads -/

/-- Settles O47: the answer, the counter of free values and the host's own lists are no part of the block's result. -/
theorem readsHaveNoSideEffect : Obligations.ReadsHaveNoSideEffect := fun s w a _ _ h =>
  ⟨s.busRead w a.toNat, _, step_read h, rfl, fun r => by cases r <;> rfl, fun _ => rfl, rfl, rfl⟩

/-- A read of ID or STATUS that passes its check returns its data, BUSY = 1 or not (20 R70). -/
theorem busRead_alwaysDefined {s : State} {w : Width} {a : Nat} (hok : readOk s.params w a = true)
    (hd : alwaysDefined a = true) : s.busRead w a = .data (s.readData w a) := by
  simp [State.busRead, hok, hd]

/-- So an aligned 32-bit read of ID or STATUS returns its value. -/
theorem busRead_definedReg {s : State} {a : Nat} {r : Reg} (hr : regAt a = some r) (ha : a % 4 = 0)
    (hd : alwaysDefined a = true) : s.busRead .w32 a = .data (s.readReg r) := by
  rw [busRead_alwaysDefined ((readOk_reg s.params .w32 a (regAt_lt hr)).2 ⟨rfl, ha⟩) hd, State.readData,
    if_pos (regAt_lt hr), hr, Option.map_some, Option.getD_some]

/-- While BUSY = 1, a read of another address that passes its check returns a free value of its width (log 7). -/
theorem busRead_free {s : State} {w : Width} {a : Nat} (hok : readOk s.params w a = true) (hb : s.busy = true)
    (hd : alwaysDefined a = false) : s.busRead w a = .data (w.cut (Config.freeWord s.draws)) := by
  simp [State.busRead, hok, hb, hd]

theorem alwaysDefined_iff (a : Nat) : alwaysDefined a = true ↔ a < 4 ∨ 8 ≤ a ∧ a < 12 := by
  simp only [alwaysDefined, Bool.or_eq_true, decide_eq_true_eq]
  omega

theorem cut_lt (w : Width) (v : Word) : (w.cut v).toNat < 2 ^ (8 * w.bytes) :=
  (BitVec.toNat_ofNat ..).trans_lt ((Nat.mod_le ..).trans_lt (field_lt ..))

/-- While BUSY = 1, a read that passes its check returns some value of its width: a 32-bit register, or a cut free word. -/
theorem busRead_busy_lt {s : State} {w : Width} {a : Nat} (hok : readOk s.params w a = true) (hb : s.busy = true) :
    ∃ d : Word, d.toNat < 2 ^ (8 * w.bytes) ∧ s.busRead w a = .data d := by
  cases hd : alwaysDefined a with
  | true =>
    have hlow := (alwaysDefined_iff a).1 hd
    obtain ⟨rfl, -⟩ := (readOk_reg s.params w a (by omega)).1 hok
    exact ⟨_, (s.readData .w32 a).isLt, busRead_alwaysDefined hok hd⟩
  | false => exact ⟨_, cut_lt w _, busRead_free hok hb hd⟩

/-- Settles O48: ID and STATUS answer as while BUSY = 0, and every other address that passes its check by a free value. -/
theorem readsWhileBusy : Obligations.ReadsWhileBusy := by
  intro s w a rest q hb h
  rw [step_read h]
  refine ⟨?_, ?_, fun hdef hbad => ?_, fun hgood hp => ?_⟩
  · rintro rfl rfl
    rw [busRead_definedReg (r := .id) rfl rfl rfl]
    rfl
  · rintro rfl rfl
    rw [busRead_definedReg (r := .status) rfl rfl rfl]
    rfl
  · have hok : ¬ readOk s.params w a.toNat = true := fun hok => by
      obtain ⟨hw, hal⟩ := (readOk_reg s.params w a.toNat (by omega)).1 hok
      exact hbad.elim (absurd hw) (absurd hal)
    rw [busRead_error hok (.inr ((alwaysDefined_iff _).2 hdef))]
  · obtain ⟨d, hd, hread⟩ := busRead_busy_lt ((readOk_iff_not_bad hp w a.toNat).2 hgood) hb
    exact ⟨d, hd, by rw [hread]⟩

end Sys2Proof.Machine
end

section
/-! PROOF. Command words (30 R80 to R88): what the decoder does with a word of each OP and what the opcode map selects,
said once over the commands; the round trips of decode and encode and the illegal words follow. -/

namespace Sys2Proof

/-! ### The formats (30 R81) -/

/-- The width of a command's operand field, which starts at bit 0; the bits above it, up to bit 23, are reserved (30 R81). -/
def Instr.operandWidth : Instr → Nat
  | .fontLoad _ => 8
  | .sample _ => 16
  | .blit _ _ => 10
  | _ => 0

theorem operandWidth_le (i : Instr) : i.operandWidth ≤ 24 := by cases i <;> simp [Instr.operandWidth]

/-- The reserved bits of a word in the command's format (30 R81). -/
def Instr.reservedField (i : Instr) (w : Word) : Nat := field w i.operandWidth (24 - i.operandWidth)

/-- The command of the same OP with the operands the word carries (30 R83). -/
def Instr.reread (i : Instr) (w : Word) : Instr :=
  match i with
  | .fontLoad _ => .fontLoad (field w 0 8)
  | .sample _ => .sample (field w 0 16)
  | .blit _ _ => .blit (field w 0 8) (Csel.ofField (field w 8 2))
  | j => j

@[simp] theorem reread_opcode (i : Instr) (w : Word) : (i.reread w).opcode = i.opcode := by cases i <;> rfl

@[simp] theorem reread_row (i : Instr) (w : Word) : (i.reread w).row = i.row := by cases i <;> rfl

@[simp] theorem reread_reservedField (i : Instr) (w : Word) : (i.reread w).reservedField w = i.reservedField w := by
  cases i <;> rfl

@[simp] theorem reread_reread (i : Instr) (w : Word) : (i.reread w).reread w = i.reread w := by cases i <;> rfl

theorem code_ofField {c : Nat} (h : c < 4) : (Csel.ofField c).code = c := by
  match c, h with
  | 0, _ | 1, _ | 2, _ | 3, _ => rfl

@[simp] theorem ofField_code (c : Csel) : Csel.ofField c.code = c := by cases c <;> rfl

theorem code_lt (c : Csel) : c.code < 4 := by cases c <;> decide

/-! ### Decode, by OP (30 R83) -/

theorem whenZero_eq_ok_iff {n : Nat} {i j : Instr} : whenZero n i = .ok j ↔ n = 0 ∧ i = j := by
  unfold whenZero
  split <;> simp [*]

theorem whenZero_isError_iff {n : Nat} {i : Instr} : (∃ e, whenZero n i = .error e) ↔ n ≠ 0 := by
  unfold whenZero
  split <;> simp [*]

/-- A word with a command's OP is that command with the word's operands, if its reserved bits are zero. -/
theorem decode_of_opcode {w : Word} {i : Instr} (h : field w 24 8 = i.opcode) :
    decode w = whenZero (i.reservedField w) (i.reread w) := by
  unfold decode
  rw [h]
  cases i <;> rfl

theorem decode_of_reservedOp {w : Word} (h : 8 < field w 24 8) : decode w = .error .reservedOp := by
  unfold decode
  split
  iterate 9 · omega
  · rfl

theorem exists_opcode_eq {op : Nat} (h : op ≤ 8) : ∃ i : Instr, i.opcode = op := by
  match op, h with
  | 0, _ => exact ⟨.nop, rfl⟩
  | 1, _ => exact ⟨.fontLoad 0, rfl⟩
  | 2, _ => exact ⟨.measure, rfl⟩
  | 3, _ => exact ⟨.draw, rfl⟩
  | 4, _ => exact ⟨.sample 0, rfl⟩
  | 5, _ => exact ⟨.bufInit, rfl⟩
  | 6, _ => exact ⟨.blit 0 .fg, rfl⟩
  | 7, _ => exact ⟨.present, rfl⟩
  | 8, _ => exact ⟨.clear, rfl⟩

/-- Every word has a reserved OP or the OP of a command. -/
theorem decode_cases (w : Word) :
    (8 < field w 24 8 ∧ decode w = .error .reservedOp) ∨
    ∃ i : Instr, field w 24 8 = i.opcode ∧ decode w = whenZero (i.reservedField w) (i.reread w) := by
  by_cases h : 8 < field w 24 8
  · exact .inl ⟨h, decode_of_reservedOp h⟩
  · obtain ⟨i, hi⟩ := exists_opcode_eq (Nat.le_of_not_lt h)
    exact .inr ⟨i, hi.symm, decode_of_opcode hi.symm⟩

/-- A word is the command `i` exactly when OP, the reserved bits and the operands say so. -/
theorem decode_eq_ok_iff {w : Word} {i : Instr} :
    decode w = .ok i ↔ field w 24 8 = i.opcode ∧ i.reservedField w = 0 ∧ i.reread w = i := by
  constructor
  · intro h
    obtain ⟨-, herr⟩ | ⟨j, hop, hj⟩ := decode_cases w
    · rw [herr] at h
      cases h
    · rw [hj, whenZero_eq_ok_iff] at h
      obtain ⟨hres, rfl⟩ := h
      simp [hop, hres]
  · rintro ⟨hop, hres, hread⟩
    rw [decode_of_opcode hop]
    exact whenZero_eq_ok_iff.2 ⟨hres, hread⟩

/-! ### Encode, then decode -/

/-- A field of the operand bits is a field of the number they hold. -/
theorem field_of_low (w : Word) {lo n : Nat} (h : lo + n ≤ 24) : field w lo n = field w 0 24 / 2 ^ lo % 2 ^ n := by
  obtain ⟨k, hk⟩ := Nat.exists_eq_add_of_le h
  simp only [field, Nat.pow_zero, Nat.div_one, hk, Nat.add_assoc]
  rw [Nat.pow_add, Nat.mod_mul_right_div_self, Nat.pow_add, Nat.mod_mul_right_mod]

theorem commandWord (i : Instr) : Laws.CommandWord.Statement i := by
  cases i with
  | nop => exact Laws.CommandWord.nop
  | fontLoad slot => exact Laws.CommandWord.fontLoad slot
  | measure => exact Laws.CommandWord.measure
  | draw => exact Laws.CommandWord.draw
  | sample scanline => exact Laws.CommandWord.sample scanline
  | bufInit => exact Laws.CommandWord.bufInit
  | blit char csel => exact Laws.CommandWord.blit char csel
  | present => exact Laws.CommandWord.present
  | clear => exact Laws.CommandWord.clear

@[simp] theorem wellFormed_fontLoad_iff (slot : Nat) : (Instr.fontLoad slot).WellFormed ↔ slot < 256 := decide_eq_true_iff

@[simp] theorem wellFormed_sample_iff (scanline : Nat) : (Instr.sample scanline).WellFormed ↔ scanline < 65536 :=
  decide_eq_true_iff

@[simp] theorem wellFormed_blit_iff (char : Nat) (csel : Csel) : (Instr.blit char csel).WellFormed ↔ char < 256 :=
  decide_eq_true_iff

theorem operandBits_lt {i : Instr} (h : i.WellFormed) : i.operandBits < 2 ^ i.operandWidth := by
  cases i with
  | fontLoad slot => exact (wellFormed_fontLoad_iff slot).1 h
  | sample scanline => exact (wellFormed_sample_iff scanline).1 h
  | blit char csel =>
    have hchar := (wellFormed_blit_iff char csel).1 h
    have hcsel := code_lt csel
    simp only [Instr.operandBits, Instr.operandWidth]
    omega
  | _ => exact Nat.one_pos

/-- Operand bits that fit the operand field leave the reserved bits zero. -/
theorem reservedField_of_low {w : Word} {i : Instr} (hlow : field w 0 24 = i.operandBits) (h : i.WellFormed) :
    i.reservedField w = 0 := by
  have hwidth := operandWidth_le i
  rw [Instr.reservedField, field_of_low w (by omega), hlow, Nat.div_eq_of_lt (operandBits_lt h), Nat.zero_mod]

/-- The operand bits of a well-formed command carry its operands. -/
theorem reread_of_low {w : Word} {i : Instr} (hlow : field w 0 24 = i.operandBits) (h : i.WellFormed) :
    i.reread w = i := by
  have low8 := field_of_low w (lo := 0) (n := 8) (by decide)
  have low16 := field_of_low w (lo := 0) (n := 16) (by decide)
  have csel2 := field_of_low w (lo := 8) (n := 2) (by decide)
  rw [hlow] at low8 low16 csel2
  cases i with
  | fontLoad slot =>
    have hslot := (wellFormed_fontLoad_iff slot).1 h
    have : field w 0 8 = slot := by simp only [low8, Instr.operandBits]; omega
    rw [Instr.reread, this]
  | sample scanline =>
    have hscan := (wellFormed_sample_iff scanline).1 h
    have : field w 0 16 = scanline := by simp only [low16, Instr.operandBits]; omega
    rw [Instr.reread, this]
  | blit char csel =>
    have hchar := (wellFormed_blit_iff char csel).1 h
    have hcode := code_lt csel
    have hc : field w 0 8 = char := by simp only [low8, Instr.operandBits]; omega
    have hs : field w 8 2 = csel.code := by simp only [csel2, Instr.operandBits]; omega
    rw [Instr.reread, hc, hs, ofField_code]
  | _ => rfl

/-- Settles O1: the encoded word has the command's OP, its reserved bits are zero, and its fields carry the operands. -/
theorem decodeOfEncode : Obligations.DecodeOfEncode := fun i h => by
  obtain ⟨hop, hlow⟩ := commandWord i h
  exact decode_eq_ok_iff.2 ⟨hop, reservedField_of_low hlow h, reread_of_low hlow h⟩

/-! ### Decode, then encode -/

/-- Operands read from a word are in range, since each is read from a field of its own width (30 R88). -/
theorem reread_wellFormed (i : Instr) (w : Word) : (i.reread w).WellFormed := by
  cases i with
  | fontLoad slot => exact (wellFormed_fontLoad_iff _).2 (field_lt w 0 8)
  | sample scanline => exact (wellFormed_sample_iff _).2 (field_lt w 0 16)
  | blit char csel => exact (wellFormed_blit_iff _ _).2 (field_lt w 0 8)
  | _ => rfl

/-- The operands of a word take up its whole operand field. -/
theorem reread_operandBits (i : Instr) (w : Word) : (i.reread w).operandBits = field w 0 i.operandWidth := by
  cases i with
  | blit char csel =>
    change (Csel.ofField (field w 8 2)).code * 256 + field w 0 8 = field w 0 10
    rw [code_ofField (field_lt w 8 2)]
    simp only [field]
    omega
  | fontLoad slot => rfl
  | sample scanline => rfl
  | _ => exact (Nat.mod_one _).symm

/-- With the reserved bits zero, the bits [23:0] are the operand field. -/
theorem low_of_reservedField {w : Word} {i : Instr} (h : i.reservedField w = 0) :
    field w 0 24 = field w 0 i.operandWidth := by
  cases i <;> simp only [Instr.reservedField, Instr.operandWidth, field] at h ⊢ <;> omega

/-- OP and the bits [23:0] are the whole word (30 R80). -/
theorem encode_eq_of_fields {w : Word} {i : Instr} (hop : field w 24 8 = i.opcode) (hlow : field w 0 24 = i.operandBits) :
    encode i = w := by
  apply BitVec.eq_of_toNat_eq
  have := w.isLt
  simp only [encode, ← hop, ← hlow, field, BitVec.toNat_ofNat]
  omega

/-- Settles O2: OP, the zero reserved bits and the operand field are all the bits of the word. -/
theorem decodedWordReassembles : Obligations.DecodedWordReassembles := by
  intro w i h
  obtain ⟨hop, hres, hread⟩ := decode_eq_ok_iff.1 h
  have hwf : i.WellFormed := hread ▸ reread_wellFormed i w
  have hlow : field w 0 24 = i.operandBits := by
    rw [low_of_reservedField hres, ← reread_operandBits, hread]
  exact ⟨hwf, by rw [assemble, if_pos hwf, encode_eq_of_fields hop hlow]⟩

/-! ### The opcode map (30 R84) -/

/-- A row's mask leaves out the operand field, and its match is OP with zeros below. -/
theorem row_mask (i : Instr) : i.row.mask = BitVec.allOnes 32 <<< i.operandWidth := by
  cases i <;> simp only [Instr.row, Instr.operandWidth] <;> decide

theorem row_matchWord (i : Instr) : i.row.matchWord = BitVec.ofNat 32 (i.opcode * 2 ^ 24) := by
  cases i <;> simp only [Instr.row, Instr.opcode] <;> decide

/-- A row selects the words with its OP and zero reserved bits. -/
theorem row_selects_iff (i : Instr) (w : Word) :
    i.row.Selects w ↔ field w 24 8 = i.opcode ∧ i.reservedField w = 0 := by
  rw [OpcodeRow.Selects, row_mask, row_matchWord, ← BitVec.shiftLeft_ushiftRight, ← BitVec.toNat_inj]
  have := w.isLt
  simp only [BitVec.toNat_shiftLeft, BitVec.toNat_ushiftRight, BitVec.toNat_ofNat, Nat.shiftLeft_eq,
    Nat.shiftRight_eq_div_pow, Instr.reservedField, field]
  cases i <;> simp only [Instr.operandWidth, Instr.opcode] <;> omega

/-- A command's row selects exactly the words that decode to a command of that row. -/
theorem row_selects_iff_decode (i : Instr) (w : Word) : i.row.Selects w ↔ ∃ j, decode w = .ok j ∧ j.row = i.row := by
  constructor
  · intro h
    obtain ⟨hop, hres⟩ := (row_selects_iff i w).1 h
    exact ⟨i.reread w, decode_eq_ok_iff.2 (by simp [hop, hres]), reread_row i w⟩
  · rintro ⟨j, hj, hrow⟩
    obtain ⟨hop, hres, -⟩ := decode_eq_ok_iff.1 hj
    exact hrow ▸ (row_selects_iff j w).2 ⟨hop, hres⟩

theorem exists_row_of_mem {row : OpcodeRow} (h : row ∈ opcodeTable) : ∃ i : Instr, i.row = row := by
  simp only [opcodeTable, List.mem_cons, List.not_mem_nil, or_false] at h
  obtain h | h | h | h | h | h | h | h | h := h <;> exact ⟨_, h.symm⟩

/-- Settles O3: each row of the table is the row of a command, whose OP and reserved bits its match and mask test. -/
theorem decodeFollowsOpcodeMap : Obligations.DecodeFollowsOpcodeMap := by
  refine ⟨rfl, fun w row hrow => ?_⟩
  obtain ⟨i, rfl⟩ := exists_row_of_mem hrow
  exact row_selects_iff_decode i w

/-- Settles O4: each word has the command's OP and its operands in their fields. -/
theorem sampleWordsDecode : Obligations.SampleWordsDecode := by
  unfold Obligations.SampleWordsDecode
  decide

end Sys2Proof

namespace Sys2Proof.Machine

open Sys2Proof.Claims

/-! ### Illegal words (30 R83, R85) -/

/-- In the words with a command's OP, the error lines of R83 are those with a reserved bit set. -/
theorem illegalWord_iff_reservedField {w : Word} {i : Instr} (h : field w 24 8 = i.opcode) :
    IllegalWord w ↔ i.reservedField w ≠ 0 := by
  cases i <;> simp [IllegalWord, h, Instr.opcode, Instr.reservedField, Instr.operandWidth]

theorem illegalWord_iff_decode (w : Word) : IllegalWord w ↔ ∃ e, decode w = .error e := by
  obtain ⟨hop, herr⟩ | ⟨i, hop, hi⟩ := decode_cases w
  · exact iff_of_true (.inl hop) ⟨_, herr⟩
  · rw [hi, illegalWord_iff_reservedField hop, whenZero_isError_iff]

/-- The engine ends a word that is no command with ILLEGAL_COMMAND. -/
theorem engineTurn_of_decode_error {s : State} {w : Word} {e : Reject} (hp : s.pending = some w)
    (he : decode w = .error e) : engineTurn s = .next (s.endCommand (opField w) (some .illegalCommand) false) := by
  simp only [engineTurn, hp, perform, he, illegal, finish_raise]

/-- Settles O5: decode rejects a reserved OP and a set reserved bit, and the error's end writes STATUS and PENDING only. -/
theorem illegalWordsOnlyReport : Obligations.IllegalWordsOnlyReport := by
  refine ⟨illegalWord_iff_decode, fun s w hp hw => ?_⟩
  obtain ⟨e, he⟩ := (illegalWord_iff_decode w).1 hw
  exact ⟨_, engineTurn_of_decode_error hp he, ⟨rfl, rfl, rfl, rfl, rfl⟩, rfl⟩

end Sys2Proof.Machine
end

section
/-! PROOF. How often a `wait` polls has no influence (30 R89, 70 R229): a poll adds an answer, and no command reads the
answers. -/

namespace Sys2Proof.Machine

open Sys2Proof.Claims

/-! ### The answers have no influence on the engine -/

/-- The state with other answers. -/
def State.withReplies (s : State) (l : List Reply) : State := { s with replies := l }

theorem cmdResult_map_ite (p : Prop) [Decidable p] (f : State → State) (a b : CmdResult) :
    (if p then a else b).map f = if p then a.map f else b.map f := apply_ite _ _ _ _

/-- No command's rule reads or writes the answers: its checks, and what it then writes, are the same. -/
theorem resultOf_withReplies (i : Instr) (s : State) (l : List Reply) :
    resultOf i (s.withReplies l) = (resultOf i s).map (·.withReplies l) := by
  have font : (s.withReplies l).resolveFont = s.resolveFont := rfl
  cases i with
  | nop | measure | clear => rfl
  | fontLoad | sample | bufInit | present =>
    simp only [resultOf, fontLoadResult, sampleCmdResult, bufInitResult, presentResult, cmdResult_map_ite]
    rfl
  | draw | blit =>
    simp only [resultOf, drawResult, blitResult, font]
    cases s.resolveFont with
    | none => rfl
    | some f =>
      simp only [cmdResult_map_ite]
      rfl

/-- The end of a command does not touch the answers its writes leave. -/
theorem finish_withReplies (op : Byte) (s : State) (l : List Reply) (r : CmdResult) :
    finish op (s.withReplies l) (r.map (·.withReplies l)) = (finish op s r).withReplies l := by
  cases r <;> rfl

/-- The engine ends a command's word with the command's result. -/
theorem engineTurn_of_decode_ok {s : State} {w : Word} {i : Instr} (hp : s.pending = some w) (hi : decode w = .ok i) :
    engineTurn s = .next (finish (BitVec.ofNat 8 i.opcode) s (resultOf i s)) := by
  simp only [engineTurn, hp, perform, hi, exec_eq_finish]

/-- The engine's turn is the same whatever answers the host has had. -/
theorem engineTurn_withReplies (s : State) :
    ∃ t, engineTurn s = .next t ∧ ∀ l, engineTurn (s.withReplies l) = .next (t.withReplies l) := by
  cases hp : s.pending with
  | none =>
    exact ⟨s, by simp only [engineTurn, hp], fun l => by
      have hl : (s.withReplies l).pending = none := hp
      simp only [engineTurn, hl]⟩
  | some w =>
    cases hw : decode w with
    | ok i =>
      refine ⟨_, engineTurn_of_decode_ok hp hw, fun l => ?_⟩
      rw [engineTurn_of_decode_ok (s := s.withReplies l) hp hw, resultOf_withReplies, finish_withReplies]
    | error e =>
      exact ⟨_, engineTurn_of_decode_error hp hw, fun l => engineTurn_of_decode_error (s := s.withReplies l) hp hw⟩

/-! ### A run of polls -/

theorem hostTurn_wait {s : State} {rest : List HostOp} (h : s.host = .wait :: rest) :
    hostTurn s = .next (if s.busy then s.poll else { s.poll with host := rest }) := by
  unfold hostTurn
  rw [h]

/-- A poll that finds BUSY = 1 leaves the host at its `wait`. -/
theorem step_wait_busy {s : State} {rest : List HostOp} {q : List Agent} (h : HostTurnAt s .wait rest q)
    (hb : s.busy = true) : step s = .next { s.poll with sched := q } := by
  rw [step_hostTurnAt h, hostTurn_wait (s := { s with sched := q }) h.1]
  exact congrArg _ (if_pos hb)

/-- A poll that finds BUSY = 0 ends the `wait`. -/
theorem step_wait_idle {s : State} {rest : List HostOp} {q : List Agent} (h : HostTurnAt s .wait rest q)
    (hb : s.busy = false) : step s = .next { s.poll with host := rest, sched := q } := by
  rw [step_hostTurnAt h, hostTurn_wait (s := { s with sched := q }) h.1]
  exact congrArg _ (if_neg (Bool.eq_false_iff.1 hb))

/-- On its turn at a `wait`, the host polls, and goes on exactly when BUSY = 0. -/
theorem step_wait {s : State} {rest : List HostOp} {q : List Agent} (h : HostTurnAt s .wait rest q) :
    step s = .next { s with
      host := if s.busy then .wait :: rest else rest, sched := q, replies := s.replies ++ [.polled s.statusWord] } := by
  cases hb : s.busy with
  | true =>
    rw [step_wait_busy h hb, if_pos rfl, ← h.1]
    rfl
  | false =>
    rw [step_wait_idle h hb]
    rfl

/-- The state after `n` polls that find BUSY = 1, with the schedule `q` still to come. -/
def State.polledTimes (s : State) (n : Nat) (q : List Agent) : State :=
  { s with replies := s.replies ++ List.replicate n (.polled s.statusWord), sched := q }

theorem polledTimes_zero (s : State) (q : List Agent) : s.polledTimes 0 q = { s with sched := q } := by
  simp [State.polledTimes]

theorem polledTimes_succ (s : State) (n : Nat) (q : List Agent) : s.polledTimes (n + 1) q = s.poll.polledTimes n q := by
  have answers : s.replies ++ List.replicate (n + 1) (.polled s.statusWord) =
      s.poll.replies ++ List.replicate n (.polled s.statusWord) := by
    simp [List.replicate_succ]
  rw [State.polledTimes, answers]
  rfl

theorem runSteps_succ {s t : State} (h : step s = .next t) (n : Nat) : runSteps (n + 1) s = runSteps n t := by
  have hcore : core.step s = .next t := h
  have run : core.run (n + 1) s = core.run n t := by simp only [Host.Core.run, hcore]
  exact run

/-- While BUSY = 1, a host at a `wait` that has the next `n` turns makes `n` polls. -/
theorem runSteps_polls {s : State} {rest : List HostOp} (hb : s.busy = true) (hh : s.host = .wait :: rest)
    (n m : Nat) (q : List Agent) :
    runSteps (n + m) { s with sched := List.replicate n .host ++ q } = runSteps m (s.polledTimes n q) := by
  induction n generalizing s with
  | zero => rw [polledTimes_zero, Nat.zero_add, List.replicate_zero, List.nil_append]
  | succ n ih =>
    have poll : step { s with sched := List.replicate (n + 1) .host ++ q } =
        .next { s.poll with sched := List.replicate n .host ++ q } :=
      step_wait_busy (s := { s with sched := List.replicate (n + 1) .host ++ q }) ⟨hh, .inl rfl⟩ hb
    rw [Nat.add_right_comm, runSteps_succ poll, polledTimes_succ]
    exact ih (s := s.poll) hb hh

/-- The engine's turn, as a run of one step. -/
theorem runSteps_engine {s t : State} (h : engineTurn { s with sched := [] } = .next t) :
    runSteps 1 { s with sched := [.engine] } = .next t :=
  runSteps_succ (s := { s with sched := [.engine] }) h 0

/-- A poll that finds BUSY = 1 is no part of a run's result (70 R229). -/
theorem value_polled_of_busy {s : State} (hb : s.busy = true) : Reply.value (.polled s.statusWord) = none := by
  obtain ⟨hbusy, -⟩ := statusWordFields s
  simp only [Reply.value, hbusy, hb, if_true]

/-- Answers without a value are no part of a run's result. -/
theorem sameResult_withReplies {u : State} {l : List Reply} (h : l.filterMap Reply.value = []) :
    SameResult (u.withReplies (u.replies ++ l)) u := by
  refine ⟨fun r => by cases r <;> rfl, fun _ => rfl, ?_, rfl⟩
  change (u.replies ++ l).filterMap Reply.value = u.replies.filterMap Reply.value
  rw [List.filterMap_append, h, List.append_nil]

/-- Settles O50: the polls only append answers, which the engine does not read and which have no value while BUSY = 1. -/
theorem waitPollsStatus : Obligations.WaitPollsStatus := by
  refine ⟨fun s rest q h => step_wait h, fun s w rest n hp hh => ?_⟩
  have hb : s.busy = true := by rw [State.busy, hp]; rfl
  obtain ⟨u, hu, hall⟩ := engineTurn_withReplies { s with sched := [] }
  have hreplies : u.replies = s.replies := by
    obtain ⟨-, -, -, h, -⟩ := engineTurn_keepsHostState _ u hu
    exact h
  have hpolls : (List.replicate n (Reply.polled s.statusWord)).filterMap Reply.value = [] := by
    simp [value_polled_of_busy hb]
  refine ⟨u.withReplies (u.replies ++ List.replicate n (.polled s.statusWord)), u, ?_, runSteps_engine hu, rfl,
    sameResult_withReplies hpolls⟩
  rw [runSteps_polls hb hh, hreplies]
  exact runSteps_engine (s := s.polledTimes n [.engine]) (hall _)

end Sys2Proof.Machine
end

section
/-! PROOF. The font store: how FONT_LOAD ends (40 R101, 60 R205), and the slot a DRAW or BLIT reads (40 R104, R105). -/

namespace Sys2Proof.Machine

open Sys2Proof.Claims

/-- A command whose rule raises an error ends with it and writes STATUS and PENDING only (60 R202). -/
theorem raises_of_resultOf {i : Instr} {s : State} {e : CmdError} (h : resultOf i s = .raise e) :
    Raises i s (BitVec.ofNat 8 i.opcode) e :=
  ⟨s.endCommand (BitVec.ofNat 8 i.opcode) (some e) false, by rw [exec_eq_finish, h, finish_raise],
    ⟨rfl, rfl, rfl, rfl, rfl⟩, rfl⟩

/-! ### The checks of FONT_LOAD, in their order -/

/-- The header check, byte by byte (40 R100). -/
theorem headerOk_iff (s : State) :
    s.headerOk = true ↔
      s.stageByte 0 = s.params.magic0 ∧ s.stageByte 1 = s.params.magic1 ∧ s.stageByte 2 = s.params.magic2 ∧
      s.stageByte 3 = 0 ∧ s.stageByte 4 = 8 ∧ s.stageByte 5 = 8 ∧
      (s.stageByte 6).toNat + 256 * (s.stageByte 7).toNat = 256 := by
  simp only [State.headerOk, Bool.and_eq_true, beq_iff_eq, and_assoc]

section

variable {s : State} {slot : Nat}

theorem fontLoadResult_noSlot (hs : s.params.fontSlots ≤ slot) : fontLoadResult slot s = .raise .illegalCommand :=
  if_pos hs

theorem fontLoadResult_tooLong (hs : slot < s.params.fontSlots) (hl : 4096 < s.regs.fontLenBytes) :
    fontLoadResult slot s = .raise .param :=
  (if_neg (Nat.not_le.2 hs)).trans (if_pos hl)

theorem fontLoadResult_noHeader (hs : slot < s.params.fontSlots) (hl : s.regs.fontLenBytes < 8) :
    fontLoadResult slot s = .raise .invalidFormat := by
  have hmax : ¬ 4096 < s.regs.fontLenBytes := by omega
  simp [fontLoadResult, Nat.not_le.2 hs, hmax, hl]

theorem fontLoadResult_badHeader (hs : slot < s.params.fontSlots) (h8 : 8 ≤ s.regs.fontLenBytes)
    (hmax : s.regs.fontLenBytes ≤ 4096) (hh : ¬ s.headerOk = true) :
    fontLoadResult slot s = .raise .invalidFormat := by
  simp [fontLoadResult, Nat.not_le.2 hs, Nat.not_lt.2 h8, Nat.not_lt.2 hmax, hh]

theorem fontLoadResult_truncated (hs : slot < s.params.fontSlots) (h8 : 8 ≤ s.regs.fontLenBytes)
    (hl : s.regs.fontLenBytes < 2056) (hh : s.headerOk = true) : fontLoadResult slot s = .raise .truncated := by
  have hmax : ¬ 4096 < s.regs.fontLenBytes := by omega
  simp [fontLoadResult, Nat.not_le.2 hs, Nat.not_lt.2 h8, hmax, hh, hl]

theorem fontLoadResult_good (hs : slot < s.params.fontSlots) (hmin : 2056 ≤ s.regs.fontLenBytes)
    (hmax : s.regs.fontLenBytes ≤ 4096) (hh : s.headerOk = true) :
    fontLoadResult slot s = .ok (s.commitFont slot s.stageTable) := by
  have h8 : ¬ s.regs.fontLenBytes < 8 := by omega
  simp [fontLoadResult, Nat.not_le.2 hs, h8, Nat.not_lt.2 hmin, Nat.not_lt.2 hmax, hh]

end

/-- Settles O13: each check that fails ends the command, and the checks before it have passed. -/
theorem fontLoadErrorsInOrder : Obligations.FontLoadErrorsInOrder := by
  intro s slot len headerOk
  refine ⟨fun hs => ?_, fun hs hl => ?_, fun hs hl => ?_, fun hs h8 hl hh => ?_, fun hs h8 hl hh => ?_⟩ <;>
    refine raises_of_resultOf (i := .fontLoad slot) ?_
  · exact fontLoadResult_noSlot hs
  · exact fontLoadResult_tooLong hs hl
  · exact fontLoadResult_noHeader hs hl
  · exact fontLoadResult_badHeader hs h8 hl (mt (headerOk_iff s).1 hh)
  · exact fontLoadResult_truncated hs h8 hl ((headerOk_iff s).2 hh)

/-! ### The commit -/

theorem stageTable_getElem? (s : State) {i : Nat} (hi : i < 2048) : s.stageTable[i]? = some (s.stageByte (8 + i)) := by
  simp [State.stageTable, hi]

/-- A byte of the committed slot is the one at its place in the image's glyph table (40 R101). -/
theorem commitFont_read_slot (s : State) (slot : Nat) {i : Nat} (hi : i < 2048) :
    (s.commitFont slot s.stageTable).mem.read (glyphAddr slot + i) = some (s.stageByte (8 + i)) := by
  rw [commitFont_mem, read_fill, stageTable_length, if_pos (by omega), Nat.add_sub_cancel_left, stageTable_getElem? s hi]

/-- A commit changes no byte outside its slot (40 R102). -/
theorem commitFont_read_other (s : State) (slot : Nat) {a : Nat}
    (ha : ¬ (glyphAddr slot ≤ a ∧ a < glyphAddr slot + 2048)) :
    (s.commitFont slot s.stageTable).mem.read a = s.mem.read a := by
  rw [commitFont_mem, read_fill, stageTable_length, if_neg ha]

/-- Settles O12: every check passes, and the commit writes the slot's bytes, its FONT_VALID bit and FONT_DEFAULT. -/
theorem fontLoadCommits : Obligations.FontLoadCommits := by
  intro s slot hp hs hmin hmax hheader
  have hresult : resultOf (.fontLoad slot) s = .ok (s.commitFont slot s.stageTable) :=
    fontLoadResult_good hs hmin hmax ((headerOk_iff s).2 hheader)
  refine ⟨(s.commitFont slot s.stageTable).endCommand 0x01 none false, ?_, ⟨rfl, rfl, rfl, rfl, rfl⟩, rfl,
    fun i hi => commitFont_read_slot s slot hi, fun a ha => commitFont_read_other s slot ha,
    fun k => flagBit_commitFont s slot s.stageTable k (Nat.lt_of_lt_of_le hs hp.1.2), ?_⟩
  · rw [exec_eq_finish, hresult]
    rfl
  · rw [endCommand_fontDefault, commitFont_fontDefault]
    cases s.fontDefault <;> rfl

/-! ### The font lookup -/

/-- A slot is valid for a lookup when it exists and its FONT_VALID bit is set (10 R24). -/
theorem slotValid_iff (s : State) (slot : Nat) :
    s.slotValid slot = true ↔ slot < s.params.fontSlots ∧ flagBit s.fontValid slot = true := by
  simp only [State.slotValid, Bool.and_eq_true, decide_eq_true_eq]

/-- FONT_SEL names a valid slot that exists (40 R104). -/
def State.namesFont (s : State) : Prop := s.regs.useDefault = false ∧ s.slotValid s.regs.selSlot = true

theorem namesFont_iff (s : State) :
    s.namesFont ↔ flagBit s.regs.fontSel 8 = false ∧ field s.regs.fontSel 0 8 < s.params.fontSlots ∧
      flagBit s.fontValid (field s.regs.fontSel 0 8) = true :=
  and_congr_right' (slotValid_iff s _)

theorem resolveFont_named {s : State} (h : s.namesFont) : s.resolveFont = some s.regs.selSlot := by
  simp [State.resolveFont, h.1, h.2]

theorem resolveFont_default {s : State} (h : ¬ s.namesFont) : s.resolveFont = s.fontDefault.map BitVec.toNat :=
  if_neg (by simpa [State.namesFont] using h)

/-- DRAW's first check (43 R170). -/
theorem drawResult_noFont {s : State} (h : s.resolveFont = none) : drawResult s = .raise .fontNotFound := by
  simp only [drawResult, h]

/-- BLIT's first check (42 R149). -/
theorem blitResult_noFont {s : State} (char : Nat) (csel : Csel) (h : s.resolveFont = none) :
    blitResult char csel s = .raise .fontNotFound := by
  simp only [blitResult, h]

/-- Settles O14: the lookup takes the named font, or else the default one, and its failure is the first check of DRAW and
BLIT. -/
theorem fontResolution : Obligations.FontResolution := by
  intro s slot named
  have hnamed : s.namesFont ↔ named := namesFont_iff s
  refine ⟨fun hn => resolveFont_named (hnamed.2 hn), fun d hn hd => ?_, fun hn hd => ?_⟩
  · rw [resolveFont_default (mt hnamed.1 hn), hd]
    rfl
  · have hnone : s.resolveFont = none := by
      rw [resolveFont_default (mt hnamed.1 hn), hd]
      rfl
    exact ⟨hnone, raises_of_resultOf (i := .draw) (drawResult_noFont hnone),
      fun char csel => raises_of_resultOf (i := .blit char csel) (blitResult_noFont char csel hnone)⟩

/-- A lookup that gives a slot gives a valid one, where the default font is one (40 R105). -/
theorem slotValid_of_resolveFont {s : State} (h : FontsOk s) {f : Nat} (hf : s.resolveFont = some f) :
    s.slotValid f = true := by
  obtain hvalid | ⟨d, hd, rfl⟩ := resolveFont_cases s f hf
  · exact hvalid
  · exact h.2.1 d hd

/-- A read of a listed byte is no free value (log 6). -/
theorem byteIn_of_read {s : State} {a : Nat} {b : Byte} (h : s.mem.read a = some b) : s.byteIn a = b := by
  rw [State.byteIn, h]
  rfl

/-- Settles O15: the slot is valid, and the invariant holds the 2048 bytes of a valid slot. -/
theorem resolvedFontIsHeld : Obligations.ResolvedFontIsHeld := by
  intro s f h hf
  obtain ⟨hslot, hbit⟩ := (slotValid_iff s f).1 (slotValid_of_resolveFont h.fonts hf)
  obtain ⟨hheld, -⟩ := h.fonts
  refine ⟨hslot, hbit, fun c hc r hr => ?_⟩
  obtain ⟨b, hb⟩ := Option.isSome_iff_exists.1 ((hheld f hbit).2 (8 * c + r) (by simp only [Config.fontBytes]; omega))
  exact ⟨b, hb, byteIn_of_read hb⟩

end Sys2Proof.Machine
end

section
/-! PROOF. What a step does to FONT_DEFAULT (40 R103) and to GLYPH (40 R106): only a FONT_LOAD that succeeds writes them. -/

namespace Sys2Proof.Machine

open Sys2Proof.Claims

/-- A command leaves FONT_DEFAULT and the memories as they are, or is a FONT_LOAD that commits its image. -/
theorem Ends.fontStore {s : State} {i : Instr} {r : CmdResult} (he : Ends s i r) :
    ((r.base s).fontDefault = s.fontDefault ∧ (r.base s).mem = s.mem) ∨
    ∃ slot, i = .fontLoad slot ∧ slot < s.params.fontSlots ∧ r = .ok (s.commitFont slot s.stageTable) := by
  cases he with
  | @fontLoad slot hs => exact .inr ⟨slot, rfl, hs, rfl⟩
  | _ => exact .inl ⟨rfl, rfl⟩

/-- So does the engine's turn. -/
theorem engineTurn_fontStore (s t : State) (h : engineTurn s = .next t) :
    (t.fontDefault = s.fontDefault ∧ t.mem = s.mem) ∨
    ∃ w slot, s.pending = some w ∧ decode w = .ok (.fontLoad slot) ∧ slot < s.params.fontSlots ∧
      t = (s.commitFont slot s.stageTable).endCommand 0x01 none false := by
  obtain ⟨-, rfl⟩ | ⟨w, i, hw, hi, rfl⟩ | ⟨w, -, rfl⟩ := engineTurn_cases s t h
  · exact .inl ⟨rfl, rfl⟩
  · obtain hsame | ⟨slot, rfl, hs, hok⟩ := (resultOf_ends i s).fontStore
    · rw [finish_eq]
      exact .inl hsame
    · rw [hok]
      exact .inr ⟨w, slot, hw, hi, hs, rfl⟩
  · exact .inl ⟨rfl, rfl⟩

/-- A step other than the reset input is the engine's turn, or a turn of the host whose next access is none. -/
theorem step_cases_of_not_reset {s t : State} (h : step s = .next t) (hr : ¬ HostResets s) :
    ∃ q, engineTurn { s with sched := q } = .next t ∨
      (hostTurn { s with sched := q } = .next t ∧ ∀ rest, s.host ≠ .reset :: rest) := by
  obtain ⟨q, hengine | ⟨hhost, hturn⟩⟩ := step_cases s t h
  · exact ⟨q, .inl hengine⟩
  · exact ⟨q, .inr ⟨hhost, fun rest hreset => hr ⟨rest, q, hturn _ rest hreset⟩⟩⟩

/-! ### FONT_DEFAULT -/

@[simp] theorem busWrite_fontDefault (s : State) (w : Width) (a : Nat) (v : Word) :
    (s.busWrite w a v).1.fontDefault = s.fontDefault := by
  obtain h | ⟨r, -, -, h⟩ | ⟨-, -, h⟩ := busWrite_cases s w a v <;> simp [h]

/-- No access of the host writes FONT_DEFAULT, whatever the parameters. -/
theorem hostTurn_fontDefault (s t : State) (hr : ∀ rest, s.host ≠ .reset :: rest) (h : hostTurn s = .next t) :
    t.fontDefault = s.fontDefault := by
  obtain ⟨-, rfl⟩ | ⟨w, a, rest, -, rfl⟩ | ⟨w, a, v, rest, -, -, rfl⟩ | ⟨rest, -, -, rfl⟩ | ⟨rest, -, -, rfl⟩ |
    ⟨rest, hreset, -⟩ := hostTurn_cases s t h
  · rfl
  · rfl
  · simp
  · rfl
  · rfl
  · exact absurd hreset (hr rest)

/-- A step but the reset input leaves FONT_DEFAULT as it is, or performs a FONT_LOAD that succeeds, which sets it where
there is none. -/
theorem step_fontDefault {s t : State} (h : step s = .next t) (hr : ¬ HostResets s) :
    t.fontDefault = s.fontDefault ∨
    ∃ w slot, s.pending = some w ∧ decode w = .ok (.fontLoad slot) ∧ t.status.err = none ∧
      t.fontDefault = s.fontDefault.or (some (BitVec.ofNat 8 slot)) := by
  obtain ⟨q, hengine | ⟨hhost, hnr⟩⟩ := step_cases_of_not_reset h hr
  · obtain ⟨hsame, -⟩ | ⟨w, slot, hw, hi, -, rfl⟩ := engineTurn_fontStore _ t hengine
    · exact .inl hsame
    · exact .inr ⟨w, slot, hw, hi, rfl, rfl⟩
  · exact .inl (hostTurn_fontDefault { s with sched := q } t hnr hhost)

/-- A FONT_LOAD that succeeds makes its slot the default font where there is none (40 R103). -/
theorem fontDefault_of_fontLoad {s t : State} {w : Word} {slot : Nat} (hp : s.pending = some w)
    (hi : decode w = .ok (.fontLoad slot)) (h : engineTurn s = .next t) (herr : t.status.err = none) :
    t.fontDefault = s.fontDefault.or (some (BitVec.ofNat 8 slot)) := by
  rw [engineTurn_of_decode_ok hp hi] at h
  cases h
  obtain ⟨e, he⟩ | ⟨-, -, -, -, hok⟩ := fontLoadResult_cases slot s
  · simp [resultOf, he] at herr
  · simp [resultOf, hok]

/-- Settles O16: FONT_DEFAULT keeps the slot it has, and only a FONT_LOAD that succeeds gives it one. -/
theorem defaultFontIsSetOnce : Obligations.DefaultFontIsSetOnce := by
  refine ⟨fun s t w slot hp hi h herr hnone => ?_, fun s t h hr => ?_⟩
  · rw [fontDefault_of_fontLoad hp hi h herr, hnone, Option.none_or]
  · obtain hsame | ⟨w, slot, hw, hi, herr, hset⟩ := step_fontDefault h hr
    · exact ⟨fun d hd => hsame.trans hd, fun hnone hsome => absurd (hsame.trans hnone) hsome⟩
    · refine ⟨fun d hd => ?_, fun hnone _ => ⟨w, slot, hw, hi, herr, ?_⟩⟩
      · rw [hset, hd, Option.some_or]
      · rw [hset, hnone, Option.none_or]

/-! ### GLYPH -/

/-- Settles O18: the host's accesses leave GLYPH alone, and the engine changes it by a commit only, inside its slot. -/
theorem onlyFontLoadWritesGlyphs : Obligations.OnlyFontLoadWritesGlyphs := by
  intro s t a hp h hr ha hchanged
  obtain ⟨q, hengine | ⟨hhost, hnr⟩⟩ := step_cases_of_not_reset h hr
  · obtain ⟨-, hsame⟩ | ⟨w, slot, hw, hi, hs, rfl⟩ := engineTurn_fontStore _ t hengine
    · exact absurd (congrArg (Memory.read · a) hsame) hchanged
    · obtain ⟨hlow, hhigh⟩ := not_imp_comm.1 (commitFont_read_other { s with sched := q } slot) hchanged
      exact ⟨w, slot, q, hw, hi, hs, hengine, rfl, hlow, hhigh⟩
  · obtain ⟨-, -, -, -, -, -, -, -, -, hmem⟩ := hostTurn_keepsEngineState { s with sched := q } t hp hnr hhost
    exact absurd (hmem a ha) hchanged

end Sys2Proof.Machine
end

section
/-! PROOF. The gradient sampler (41): the colour at a position of the cyclic palette, which the exact form (R122) and the
integer form (R125) both compute, and the commands that use the palette. -/

namespace Sys2Proof.Machine

open Sys2Proof.Claims

/-! ### Rounding -/

/-- An integer rounds to itself (41 R123). -/
@[simp] theorem roundHalfUp_intCast (k : Int) : roundHalfUp k = k := by
  rw [roundHalfUp, Int.floor_eq_iff]
  constructor <;> linarith

theorem roundHalfUp_mono {x y : ℚ} (h : x ≤ y) : roundHalfUp x ≤ roundHalfUp y :=
  Int.floor_le_floor (by linarith)

/-- Rounding half up of a quotient, in integers alone: how R125 rounds. -/
theorem roundHalfUp_div (V : Int) {D : Nat} (hD : 0 < D) : roundHalfUp (V / D) = (2 * V + D) / (2 * D) := by
  have hD' : (D : ℚ) ≠ 0 := by positivity
  have hsum : (V / D : ℚ) + 1 / 2 = ((2 * V + D : Int) : ℚ) / ((2 * D : Nat) : ℚ) := by
    push_cast
    field_simp
  rw [roundHalfUp, hsum, Rat.floor_intCast_div_natCast]
  push_cast
  rfl

/-- The linear interpolation of two channel values (41 R122). -/
def interpolated (frac : ℚ) (p q : Byte) : ℚ := (p.toNat : ℚ) + ((q.toNat : ℚ) - p.toNat) * frac

theorem laneExact_eq (frac : ℚ) (p q : Byte) :
    laneExact frac p q = BitVec.ofInt 8 (roundHalfUp (interpolated frac p q)) := rfl

theorem interpolated_between {frac : ℚ} (p q : Byte) (h0 : 0 ≤ frac) (h1 : frac ≤ 1) :
    ((min p.toNat q.toNat : Int) : ℚ) ≤ interpolated frac p q ∧
      interpolated frac p q ≤ ((max p.toNat q.toNat : Int) : ℚ) := by
  push_cast
  obtain h | h := le_total (p.toNat : ℚ) q.toNat
  · rw [min_eq_left h, max_eq_right h, interpolated]
    constructor <;> nlinarith
  · rw [min_eq_right h, max_eq_left h, interpolated]
    constructor <;> nlinarith

/-- The rounded interpolation lies between the two channel values (41 R123). -/
theorem roundHalfUp_interpolated_between {frac : ℚ} (p q : Byte) (h0 : 0 ≤ frac) (h1 : frac ≤ 1) :
    (min p.toNat q.toNat : Int) ≤ roundHalfUp (interpolated frac p q) ∧
      roundHalfUp (interpolated frac p q) ≤ (max p.toNat q.toNat : Int) := by
  obtain ⟨hlow, hhigh⟩ := interpolated_between p q h0 h1
  constructor
  · simpa only [roundHalfUp_intCast] using roundHalfUp_mono hlow
  · simpa only [roundHalfUp_intCast] using roundHalfUp_mono hhigh

/-- A byte holds a value between two bytes without wrapping. -/
theorem toNat_ofInt_between {p q : Byte} {v : Int} (hlow : (min p.toNat q.toNat : Int) ≤ v)
    (hhigh : v ≤ (max p.toNat q.toNat : Int)) : ((BitVec.ofInt 8 v).toNat : Int) = v := by
  have hp := p.isLt
  have hq := q.isLt
  rw [BitVec.toNat_ofInt]
  omega

/-- Settles O22: rounding is monotone and fixes integers, so the rounded value stays between the two channels. -/
theorem roundingNeedsNoClamp : Obligations.RoundingNeedsNoClamp := by
  refine ⟨⟨?_, ?_⟩, fun frac p q h0 h1 => ?_⟩
  · norm_num [roundHalfUp]
  · norm_num [roundHalfUp]
  · obtain ⟨hlow, hhigh⟩ := roundHalfUp_interpolated_between p q h0 h1.le
    exact ⟨hlow, hhigh, toNat_ofInt_between hlow hhigh⟩

/-! ### One lane -/

/-- The integer lane of R125 is the exact one. -/
theorem lane_eq_laneExact {D : Nat} (hD : 0 < D) (r : Int) (p q : Byte) : lane D r p q = laneExact (r / D) p q := by
  have hD' : (D : ℚ) ≠ 0 := by positivity
  have hinterp : interpolated (r / D) p q = ((p.toNat * D + (q.toNat - p.toNat) * r : Int) : ℚ) / D := by
    rw [interpolated]
    push_cast
    field_simp
  rw [laneExact_eq, hinterp, roundHalfUp_div _ hD, lane]

/-- At an entry of the palette the lane gives the entry's channel. -/
@[simp] theorem laneExact_zero (p q : Byte) : laneExact 0 p q = p := by
  have hround : roundHalfUp (interpolated 0 p q) = p.toNat := by
    simpa [interpolated] using roundHalfUp_intCast p.toNat
  rw [laneExact_eq, hround, BitVec.ofInt_natCast, BitVec.ofNat_toNat, BitVec.setWidth_eq]

/-! ### The position on the palette -/

/-- The wrap of a position into [0, n) (41 R122). -/
def wrap (n : Nat) (pos : ℚ) : ℚ := pos - n * ⌊pos / n⌋

/-- The wrap removes a whole turn (41 R127). -/
theorem wrap_add_length {n : Nat} (hn : 0 < n) (pos : ℚ) : wrap n (pos + n) = wrap n pos := by
  have hn' : (n : ℚ) ≠ 0 := by positivity
  rw [wrap, wrap, add_div, div_self hn', Int.floor_add_one]
  push_cast
  ring

/-- A position on the palette stays where it is. -/
theorem wrap_natCast {k n : Nat} (hk : k < n) : wrap n k = k := by
  have hfloor : ⌊(k / n : ℚ)⌋ = 0 := by
    rw [Rat.floor_natCast_div_natCast, ← Int.natCast_div, Nat.div_eq_of_lt hk, Nat.cast_zero]
  rw [wrap, hfloor, Int.cast_zero, mul_zero, sub_zero]

/-- The wrap in units of `1/D` is the floor remainder of R125. -/
theorem wrap_div (N : Int) {n D : Nat} (hD : 0 < D) : wrap n (N / D) = (N % (n * D) : Int) / (D : ℚ) := by
  have hD' : (D : ℚ) ≠ 0 := by positivity
  have hfloor : ⌊(N / D / n : ℚ)⌋ = N / (n * D) := by
    rw [div_div, ← Nat.cast_mul, Rat.floor_intCast_div_natCast, mul_comm D n]
    push_cast
    rfl
  rw [wrap, hfloor, Int.emod_def]
  push_cast
  field_simp

/-- The integer position of R125 is the wrapped position of R122. -/
theorem wrap_eq_wrappedPos (s n : Nat) (O : Int) {d : Nat} (hd : 0 < d) :
    wrap n ((s : ℚ) / d * (n - 1) + O / 65536) = wrappedPos s d n O / (65536 * d : Nat) := by
  have hd' : (d : ℚ) ≠ 0 := by positivity
  have hpos : (s : ℚ) / d * (n - 1) + O / 65536 =
      ((s * (n - 1) * 65536 + O * d : Int) : ℚ) / (65536 * d : Nat) := by
    push_cast
    field_simp
  rw [hpos, wrap_div _ (by omega), wrappedPos]
  push_cast
  rfl

/-- The exact colour at the position `pos` of the cyclic palette (41 R122). -/
def colourAtPos (pal : List Color) (pos : ℚ) : Color :=
  let i := ⌊pos⌋.toNat
  let frac := pos - i
  let p := pal.getD i opaqueWhite
  let q := pal.getD ((i + 1) % pal.length) opaqueWhite
  ⟨laneExact frac p.r q.r, laneExact frac p.g q.g, laneExact frac p.b q.b, laneExact frac p.a q.a⟩

/-- The colour at an entry is that entry (41 R129). -/
theorem colourAtPos_natCast {pal : List Color} {k : Nat} (hk : k < pal.length) : colourAtPos pal k = pal[k] := by
  simp [colourAtPos, hk]

/-- The integer lanes of R125 compute the colour at the position `M / D`. -/
theorem lanes_eq_colourAtPos (pal : List Color) {M : Int} {D : Nat} (hM : 0 ≤ M) (hD : 0 < D) :
    lanes D (M % D) (pal.getD (M / D).toNat opaqueWhite) (pal.getD (((M / D).toNat + 1) % pal.length) opaqueWhite) =
      colourAtPos pal (M / D) := by
  have hD' : (D : ℚ) ≠ 0 := by positivity
  have hfrac : (M / D : ℚ) - (M / D : Int).toNat = (M % D : Int) / (D : ℚ) := by
    rw [← Int.cast_natCast (M / D).toNat, Int.toNat_of_nonneg (Int.ediv_nonneg hM D.cast_nonneg), Int.emod_def]
    push_cast
    field_simp
  simp only [colourAtPos, lanes, Rat.floor_intCast_div_natCast, hfrac, lane_eq_laneExact hD]

/-! ### The sampler -/

section

variable (s H : Nat) {pal : List Color}

/-- The empty palette (41 R121). -/
@[simp] theorem sample_nil (O : Int) : sample s H [] O = opaqueWhite := rfl

/-- The singleton palette (41 R121, R128). -/
@[simp] theorem sample_singleton (p : Color) (O : Int) : sample s H [p] O = p := rfl

/-- The exact sampler on a palette of two colours or more (41 R122). -/
theorem sampleExact_eq_colourAtPos (h : 2 ≤ pal.length) (off : ℚ) :
    sampleExact s H pal off =
      colourAtPos pal (wrap pal.length ((s : ℚ) / (max 1 (H - 1) : Nat) * (pal.length - 1) + off)) :=
  match pal, h with
  | _ :: _ :: _, _ => rfl

/-- The integer sampler on a palette of two colours or more (41 R125). -/
theorem sample_eq_colourAtPos (h : 2 ≤ pal.length) (O : Int) :
    sample s H pal O =
      colourAtPos pal (wrappedPos s (max 1 (H - 1)) pal.length O / (65536 * max 1 (H - 1) : Nat)) :=
  have hD : 0 < 65536 * max 1 (H - 1) := by omega
  have hM : 0 ≤ wrappedPos s (max 1 (H - 1)) pal.length O := Int.emod_nonneg _ (by positivity)
  match pal, h with
  | _ :: _ :: _, _ => lanes_eq_colourAtPos _ hM hD

end

/-- Settles O20: the degenerate palettes have an equation each. -/
theorem degeneratePalettes : Obligations.DegeneratePalettes := fun s H O p =>
  ⟨sample_nil s H O, sample_singleton s H p O⟩

/-- Settles O19: both samplers give the colour at the same wrapped position. -/
theorem integerFormIsExact : Obligations.IntegerFormIsExact
  | _, _, [], _ => rfl
  | _, _, [_], _ => rfl
  | s, H, p :: q :: rest, O => by
    have h : 2 ≤ (p :: q :: rest).length := by simp
    rw [sample_eq_colourAtPos s H h, sampleExact_eq_colourAtPos s H h, wrap_eq_wrappedPos s _ O (by omega)]

/-- The exact sampler is cyclic in its offset (41 R127). -/
theorem sampleExact_add_length (s H : Nat) (off : ℚ) :
    ∀ pal : List Color, pal ≠ [] → sampleExact s H pal off = sampleExact s H pal (off + pal.length)
  | [_], _ => rfl
  | p :: q :: rest, _ => by
    have h : 2 ≤ (p :: q :: rest).length := by simp
    rw [sampleExact_eq_colourAtPos s H h, sampleExact_eq_colourAtPos s H h, ← add_assoc, wrap_add_length (by omega)]

/-- Settles O21: the exact sampler is cyclic, and the integer form is the exact sampler. -/
theorem samplerIsCyclic : Obligations.SamplerIsCyclic := by
  intro s H pal hpal
  refine ⟨fun off => sampleExact_add_length s H off pal hpal, fun O => ?_⟩
  have hoff : ((O + pal.length * 65536 : Int) : ℚ) / 65536 = (O : ℚ) / 65536 + pal.length := by
    push_cast
    field_simp
  rw [integerFormIsExact, integerFormIsExact, hoff, ← sampleExact_add_length s H _ pal hpal]

/-- A scanline whose position is a whole number `k` of entries, without a wrap, has the entry's colour. -/
theorem sampleExact_at_entry {s H k : Nat} {off : ℚ} :
    ∀ {pal : List Color} (hk : k < pal.length), (s : ℚ) / (max 1 (H - 1) : Nat) * (pal.length - 1) + off = k →
      sampleExact s H pal off = pal[k]
  | [p], hk, _ => by
    obtain rfl : k = 0 := by simpa using hk
    rfl
  | p :: q :: rest, hk, hpos => by
    rw [sampleExact_eq_colourAtPos s H (by simp), hpos, wrap_natCast hk, colourAtPos_natCast hk]

/-- Settles O23: scanline 0 is at entry 0, and scanline H - 1 at the last entry. -/
theorem samplerEndpoints : Obligations.SamplerEndpoints := by
  intro H pal p q hH hp hq
  rw [List.head?_eq_getElem?] at hp
  rw [List.getLast?_eq_getElem?] at hq
  obtain ⟨hfirst, rfl⟩ := List.getElem?_eq_some_iff.1 hp
  obtain ⟨hlast, rfl⟩ := List.getElem?_eq_some_iff.1 hq
  have hpos : ((H - 1 : Nat) : ℚ) / (max 1 (H - 1) : Nat) * (pal.length - 1) + (0 : Int) / 65536 =
      (pal.length - 1 : Nat) := by
    have hd : ((H - 1 : Nat) : ℚ) ≠ 0 := Nat.cast_ne_zero.2 (by omega)
    rw [max_eq_right (by omega), div_self hd, Nat.cast_pred hfirst]
    simp
  rw [integerFormIsExact, integerFormIsExact]
  exact ⟨sampleExact_at_entry hfirst (by simp), sampleExact_at_entry hlast hpos⟩

/-! ### The commands that use the palette -/

/-- SAMPLE with a palette that fits (41 R126). -/
theorem sampleCmdResult_fits {s : State} (scanline : Nat) (h : s.regs.palN ≤ s.params.maxPalette) :
    sampleCmdResult scanline s =
      .ok (s.setSample (colorWord (sampleExact scanline s.regs.sampleHeight s.palette (s.regs.gradO / 65536)))) := by
  have hfits : ¬ s.paletteTooLong = true := by simpa [State.paletteTooLong] using h
  rw [sampleCmdResult, if_neg hfits, integerFormIsExact]

/-- Settles O24: SAMPLE's one write is the colour of the integer form, which is exact. -/
theorem sampleWritesItsColour : Obligations.SampleWritesItsColour := by
  intro s scanline hfits
  have hresult : resultOf (.sample scanline) s = .ok _ := sampleCmdResult_fits scanline hfits
  refine ⟨_, by rw [exec_eq_finish, hresult], ?_, ?_, ?_⟩
  · exact ⟨rfl, rfl, rfl, rfl, rfl⟩
  · rfl
  · rfl

/-! The palette's check of each command (41 R124). -/

section

variable {s : State} (h : s.paletteTooLong = true)

include h

theorem sampleCmdResult_tooLong (scanline : Nat) : sampleCmdResult scanline s = .raise .param := if_pos h

theorem blitResult_tooLong (char : Nat) {f : Nat} (hf : s.resolveFont = some f) :
    blitResult char .grad s = .raise .param := by
  simp [blitResult, hf, h]

/-- DRAW's two checks after the font, of the text and of the palette, raise the same error (43 R170). -/
theorem drawResult_tooLong {f : Nat} (hf : s.resolveFont = some f) (hg : s.regs.gradEn = true) :
    drawResult s = .raise .param := by
  simp [drawResult, hf, hg, h]

end

/-- Settles O25: the palette's check fails in each of the three commands that use it. -/
theorem longPaletteIsParam : Obligations.LongPaletteIsParam := by
  intro s scanline char f hlong
  have h : s.paletteTooLong = true := decide_eq_true hlong
  exact ⟨raises_of_resultOf (i := .sample scanline) (sampleCmdResult_tooLong h scanline),
    fun hf => raises_of_resultOf (i := .blit char .grad) (blitResult_tooLong h char hf),
    fun hf hg => raises_of_resultOf (i := .draw) (drawResult_tooLong h hf hg)⟩

end Sys2Proof.Machine
end

section
/-! PROOF. The glyph rasterizer (42): the pixels a blit fills are the ones the placed glyph lights, a blit is one colour
write to each of them, and BUF_INIT and BLIT end with those writes or with their error. -/

namespace Sys2Proof.Machine

open Sys2Proof.Claims

/-! ### The pixels a blit fills -/

/-- Column 0 is the leftmost and stands in bit 7 (10 R48). -/
theorem lit_eq_getLsbD (b : Byte) (col : Nat) : lit b col = b.getLsbD (7 - col) := by
  rw [lit, BitVec.getLsbD, Nat.testBit_eq_decide_div_mod_eq, beq_eq_decide]

/-- A pixel is listed when, on each axis, it lies in a cell whose bit is set (42 R142). -/
theorem mem_blitPixels_iff (glyph : Nat → Byte) (ox oy : Int) (sx sy : Nat) (x y : Int) :
    (x, y) ∈ blitPixels glyph ox oy sx sy ↔
      ∃ row < 8, (∃ col < 8, lit (glyph row) col = true ∧ ∃ dx < sx, x = ox + (col * sx + dx : Nat)) ∧
        ∃ dy < sy, y = oy + (row * sy + dy : Nat) := by
  simp only [blitPixels, List.mem_flatMap, List.mem_ite_nil_right, List.mem_map, List.mem_range, Prod.mk.injEq]
  constructor
  · rintro ⟨row, hrow, col, hcol, hlit, dy, hdy, dx, hdx, rfl, rfl⟩
    exact ⟨row, hrow, ⟨col, hcol, hlit, dx, hdx, rfl⟩, dy, hdy, rfl⟩
  · rintro ⟨row, hrow, ⟨col, hcol, hlit, dx, hdx, rfl⟩, dy, hdy, rfl⟩
    exact ⟨row, hrow, col, hcol, hlit, dy, hdy, dx, hdx, rfl, rfl⟩

/-- On one axis, eight cells of `n` pixels each from the origin `o` cover `8·n` pixels, and the cell of a pixel `z` is the
quotient of its distance from the origin by `n`. -/
theorem exists_cell_iff (P : Nat → Prop) (o z : Int) (n : Nat) :
    (∃ i < 8, P i ∧ ∃ d < n, z = o + (i * n + d : Nat)) ↔ (o ≤ z ∧ z < o + 8 * n) ∧ P ((z - o).toNat / n) := by
  constructor
  · rintro ⟨i, hi, hP, d, hd, rfl⟩
    have hcell : i * n + d < 8 * n := by
      calc i * n + d < (i + 1) * n := by rw [Nat.succ_mul]; omega
        _ ≤ 8 * n := Nat.mul_le_mul_right n hi
    have hquot : (i * n + d) / n = i := by
      rw [Nat.mul_comm, Nat.mul_add_div (by omega), Nat.div_eq_of_lt hd, Nat.add_zero]
    rw [add_sub_cancel_left, Int.toNat_natCast, hquot]
    exact ⟨by omega, hP⟩
  · rintro ⟨⟨hlow, hhigh⟩, hP⟩
    have hlt : (z - o).toNat < n * 8 := by omega
    refine ⟨(z - o).toNat / n, Nat.div_lt_of_lt_mul hlt, hP, (z - o).toNat % n, Nat.mod_lt _ (by omega), ?_⟩
    rw [Nat.div_add_mod']
    omega

/-- The loops of 42 R142 list the pixels the placed glyph lights. -/
theorem mem_blitPixels_iff_coversAt (glyph : Nat → Byte) (ox oy : Int) (sx sy x y : Nat) :
    ((x : Int), (y : Int)) ∈ blitPixels glyph ox oy sx sy ↔ coversAt glyph ox oy sx sy x y = true := by
  rw [mem_blitPixels_iff]
  simp only [exists_cell_iff, lit_eq_getLsbD, coversAt, Bool.and_eq_true, decide_eq_true_eq]
  tauto

/-! ### What a blit does to a buffer -/

/-- In the buffer, a pixel is the one at its index (10 R49). -/
theorem pixel_eq_getElem? {r : Raster} {x y : Nat} (hx : x < r.w) (hy : y < r.h) :
    r.pixel x y = r.pixels[y * r.w + x]? := if_pos ⟨hx, hy⟩

/-- Writes to a list of pixels set each listed pixel to the source's colour at its row, and no other pixel: a pixel written
twice takes the same colour twice. -/
theorem pixel_foldl_plot (src : Source) (l : List (Int × Int)) {r : Raster} (hr : r.Ok) {x y : Nat} (hx : x < r.w)
    (hy : y < r.h) :
    (l.foldl (Raster.plot src) r).pixel x y =
      if ((x : Int), (y : Int)) ∈ l then some (src.colourAt y) else r.pixel x y := by
  induction l generalizing r with
  | nil => simp
  | cons p l ih =>
    obtain ⟨hw, hh, hlen⟩ := plot_shape src r p
    have hok : (r.plot src p).Ok := by rw [Raster.Ok, hlen, hw, hh, hr]
    rw [List.foldl_cons, ih hok (hw ▸ hx) (hh ▸ hy), pixel_plot src r hr p x y hx hy]
    have hhead : (p.1 = x ∧ p.2 = y) ↔ ((x : Int), (y : Int)) = p := by
      rw [Prod.ext_iff]
      exact and_congr eq_comm eq_comm
    by_cases hp : ((x : Int), (y : Int)) = p <;> simp [hhead, hp]

/-- After a blit each pixel the placed glyph lights has the source's colour at its row; the others are as they were. -/
theorem pixel_blit (glyph : Nat → Byte) (ox oy : Int) (sx sy : Nat) (src : Source) {r : Raster} (hr : r.Ok) {x y : Nat}
    (hx : x < r.w) (hy : y < r.h) :
    (blit glyph ox oy sx sy src r).pixel x y =
      if coversAt glyph ox oy sx sy x y then some (src.colourAt y) else r.pixel x y := by
  simp only [blit, pixel_foldl_plot src _ hr hx hy, mem_blitPixels_iff_coversAt]

/-- Settles O26: a blit keeps the shape, and its pixels are those of `pixel_blit`. The name `blitPixels` is the model's. -/
theorem blit_paintsCoveredPixels : Obligations.BlitPixels := by
  intro glyph ox oy sx sy src r hr q
  obtain ⟨hw, hh, hlen⟩ := blit_shape glyph ox oy sx sy src r
  refine ⟨hw, hh, hlen, fun x hx y hy => ?_⟩
  rw [← pixel_eq_getElem? hx hy, ← pixel_blit glyph ox oy sx sy src hr hx hy, pixel_eq_getElem? (hw ▸ hx) (hh ▸ hy), hw]

/-! ### Blits that write nothing -/

/-- A cell of size 0 holds no pixel, and a blank glyph lights no cell (42 R147). -/
theorem blitPixels_eq_nil {glyph : Nat → Byte} {sx sy : Nat} (ox oy : Int)
    (h : sx = 0 ∨ sy = 0 ∨ ∀ row < 8, glyph row = 0) : blitPixels glyph ox oy sx sy = [] := by
  refine List.eq_nil_iff_forall_not_mem.2 fun p hp => ?_
  obtain ⟨row, hrow, ⟨col, -, hlit, dx, hdx, -⟩, dy, hdy, -⟩ := (mem_blitPixels_iff glyph ox oy sx sy p.1 p.2).1 hp
  obtain rfl | rfl | hblank := h
  · exact Nat.not_lt_zero dx hdx
  · exact Nat.not_lt_zero dy hdy
  · rw [hblank row hrow, lit_eq_getLsbD] at hlit
    simp at hlit

theorem blit_eq_self {glyph : Nat → Byte} {sx sy : Nat} (ox oy : Int) (src : Source) (r : Raster)
    (h : sx = 0 ∨ sy = 0 ∨ ∀ row < 8, glyph row = 0) : blit glyph ox oy sx sy src r = r := by
  rw [blit, blitPixels_eq_nil ox oy h, List.foldl_nil]

section

variable {glyph : Nat → Byte} (h : ∀ row < 8, glyph row = 0)

include h

theorem blitAt_blank (e : Effective) (k : Nat) (src : Source) (r : Raster) (o : Int × Int) :
    blitAt e glyph k src r o = r := blit_eq_self _ _ src r (.inr (.inr h))

theorem outlineLayer_blank (p : Paint) (k : Nat) (r : Raster) : outlineLayer p glyph k r = r := by
  unfold outlineLayer
  split
  · rfl
  · exact List.foldl_fixed' (blitAt_blank h p.eff k _ r) _

theorem shadowLayer_blank (p : Paint) (k : Nat) (r : Raster) : shadowLayer p glyph k r = r := by
  unfold shadowLayer
  split
  · rfl
  · exact blitAt_blank h p.eff k _ r _

/-- No layer of a blank character writes a pixel (43 R180). -/
theorem composite_blank (p : Paint) (k : Nat) (r : Raster) : composite p glyph k r = r := by
  rw [composite, blitAt_blank h, shadowLayer_blank h, outlineLayer_blank h]

end

/-- Settles O29: such a blit lists no pixel, and each layer of a blank character is such a blit. -/
theorem emptyBlitsWriteNothing : Obligations.EmptyBlitsWriteNothing :=
  ⟨fun _ ox oy _ _ src r h => blit_eq_self ox oy src r h, fun p _ k r h => composite_blank h p k r⟩

/-! ### BUF_INIT -/

theorem bufInitResult_fits {s : State} (hw : s.regs.reqW ≤ s.params.maxW) (hh : s.regs.reqH ≤ s.params.maxH) :
    bufInitResult s = .ok (s.setBuffer s.regs.reqW s.regs.reqH
      (Raster.filled s.regs.reqW s.regs.reqH s.regs.fillColor).pixels) :=
  if_neg (by omega)

theorem bufInitResult_tooLarge {s : State} (h : s.params.maxW < s.regs.reqW ∨ s.params.maxH < s.regs.reqH) :
    bufInitResult s = .raise .tooLarge := if_pos h

/-- Settles O27: the limits are the one check, and the request's fields are 16 bits wide, so that BUF_CUR reads them back. -/
theorem bufInitFillsOrTooLarge : Obligations.BufInitFillsOrTooLarge := by
  refine ⟨by decide, ?_⟩
  intro s w h
  refine ⟨fun hw hh => ?_, fun hlarge => ?_⟩
  · have hresult : resultOf .bufInit s = .ok _ := bufInitResult_fits hw hh
    refine ⟨_, by rw [exec_eq_finish, hresult], ?_, ?_, pairWord_fields s.regs.bufReq, ?_, ?_, rfl⟩
    · exact ⟨rfl, rfl, rfl, rfl, rfl⟩
    · rfl
    · exact setBuffer_bufW s w h (Raster.filled w h s.regs.fillColor).pixels (field_lt s.regs.bufReq 0 16)
    · exact setBuffer_bufH s w h (Raster.filled w h s.regs.fillColor).pixels (field_lt s.regs.bufReq 16 16)
  · exact raises_of_resultOf (i := .bufInit) (bufInitResult_tooLarge hlarge)

/-! ### BLIT -/

theorem blitResult_fits {s : State} (char : Nat) {csel : Csel} {f : Nat} (hf : s.resolveFont = some f)
    (hfits : csel = .grad → s.regs.palN ≤ s.params.maxPalette) :
    blitResult char csel s = .ok { s with
      pix := (blit (s.glyphRow f char) s.regs.originX s.regs.originY s.regs.scaleX s.regs.scaleY
        (s.blitSource csel) s.raster).pixels } := by
  have hcheck : ¬ (csel = .grad ∧ s.paletteTooLong = true) := by simpa [State.paletteTooLong] using hfits
  simp only [blitResult, hf, if_neg hcheck]

/-- Settles O28: BLIT checks the font, then the palette for CSEL = grad, and its one write is the blit of O26. -/
theorem blitPaintsTheGlyph : Obligations.BlitPaintsTheGlyph := by
  intro s char csel
  refine ⟨fun hnone => raises_of_resultOf (i := .blit char csel) (blitResult_noFont char csel hnone), ?_⟩
  intro f hf hfits hok src
  have hsrc : s.blitSource csel = src := by cases csel <;> rfl
  have hresult : resultOf (.blit char csel) s = .ok _ := blitResult_fits char hf hfits
  obtain ⟨-, -, hlen, hpixels⟩ := blit_paintsCoveredPixels (s.glyphRow f char) s.regs.originX s.regs.originY
    s.regs.scaleX s.regs.scaleY (s.blitSource csel) s.raster hok
  refine ⟨_, by rw [exec_eq_finish, hresult], ?_, ?_, hlen, ?_⟩
  · exact ⟨rfl, rfl, rfl, rfl, rfl⟩
  · rfl
  · exact hsrc ▸ hpixels

end Sys2Proof.Machine
end

section
/-! PROOF. The size of a text (43 R160 to R162), which MEASURE and DRAW write; PRESENT; and the outline's offsets (43 R168). -/

namespace Sys2Proof.Machine

open Sys2Proof.Claims

/-! ### The end of a command -/

/-- A command whose rule makes its writes ends without an error (60 R201). -/
theorem exec_of_ok {i : Instr} {s t : State} (h : resultOf i s = .ok t) :
    exec i s = .next (t.endCommand (BitVec.ofNat 8 i.opcode) none false) := by
  rw [exec_eq_finish, h, finish_ok]

/-- A no-op DRAW or PRESENT ends without an error and with NOOP = 1 (60 R201). -/
theorem exec_of_noop {i : Instr} {s t : State} (h : resultOf i s = .noop t) :
    exec i s = .next (t.endCommand (BitVec.ofNat 8 i.opcode) none true) := by
  rw [exec_eq_finish, h, finish_noop]

theorem ended_endCommand (s : State) (op : Byte) (err : Option CmdError) (noop : Bool) :
    Ended (s.endCommand op err noop) op err noop := ⟨rfl, rfl, rfl, rfl, rfl⟩

/-! ### The size of a text (43 R160 to R162) -/

theorem effSX_le (g : Regs) : effSX g ≤ 255 := Nat.le_of_lt_succ (field_lt _ _ _)

theorem effSY_le (g : Regs) : effSY g ≤ 255 := Nat.le_of_lt_succ (field_lt _ _ _)

theorem effT_le (g : Regs) : effT g ≤ 255 := by
  unfold effT
  split
  · exact Nat.le_of_lt_succ (field_lt _ _ _)
  · omega

theorem effDX_range (g : Regs) : -128 ≤ effDX g ∧ effDX g ≤ 127 := by
  unfold effDX
  split
  · exact sext8_range _ (field_lt _ _ _)
  · omega

theorem effDY_range (g : Regs) : -128 ≤ effDY g ∧ effDY g ≤ 127 := by
  unfold effDY
  split
  · exact sext8_range _ (field_lt _ _ _)
  · omega

/-- The room an outline or a shadow takes on one axis, extraX or extraY, is at most `255 · 255 · 2` (43 R161, R162). -/
theorem extra_le {d : Int} {t n : Nat} (hd : -128 ≤ d ∧ d ≤ 127) (ht : t ≤ 255) (hn : n ≤ 255) :
    max (d.natAbs * n) (t * n * 2) ≤ 130050 := by
  have hshadow : d.natAbs * n ≤ 128 * 255 := Nat.mul_le_mul (by omega) hn
  have houtline : t * n ≤ 255 * 255 := Nat.mul_le_mul ht hn
  omega

theorem sizeW_le (g : Regs) : sizeW g ≤ 133821450 := by
  have hextra := extra_le (effDX_range g) (effT_le g) (effSX_le g)
  have hlen : field g.textLen 0 16 * 8 ≤ 65535 * 8 :=
    Nat.mul_le_mul_right 8 (Nat.le_of_lt_succ (field_lt _ _ _))
  have htext := Nat.mul_le_mul hlen (effSX_le g)
  unfold sizeW
  omega

theorem sizeH_le (g : Regs) : sizeH g ≤ 132090 := by
  have hextra := extra_le (effDY_range g) (effT_le g) (effSY_le g)
  have hsy := effSY_le g
  unfold sizeH
  omega

theorem sizeW_eq_zero_iff (g : Regs) :
    sizeW g = 0 ↔ effSX g = 0 ∨ (field g.textLen 0 16 = 0 ∧
      max ((effDX g).natAbs * effSX g) (effT g * effSX g * 2) = 0) := by
  by_cases hsx : effSX g = 0 <;> simp [sizeW, hsx]

theorem sizeH_eq_zero_iff (g : Regs) : sizeH g = 0 ↔ effSY g = 0 := by
  by_cases hsy : effSY g = 0 <;> simp [sizeH, hsy]

/-- OUT_W holds the width of a text exactly (43 R162). -/
theorem toNat_sizeW (g : Regs) : (BitVec.ofNat 32 (sizeW g)).toNat = sizeW g := by
  have := sizeW_le g
  rw [BitVec.toNat_ofNat, Nat.mod_eq_of_lt (by omega)]

/-- OUT_H holds the height of a text exactly (43 R162). -/
theorem toNat_sizeH (g : Regs) : (BitVec.ofNat 32 (sizeH g)).toNat = sizeH g := by
  have := sizeH_le g
  rw [BitVec.toNat_ofNat, Nat.mod_eq_of_lt (by omega)]

/-- The machine's size of a text is that of 43 R162. -/
theorem measureResult_eq (s : State) : measureResult s = .ok (s.setOutSize (sizeW s.regs) (sizeH s.regs)) := rfl

/-- Settles O30: the machine's size is 43 R162's, and the registers' fields bound it. -/
theorem measureWritesTheSize : Obligations.MeasureWritesTheSize := by
  refine ⟨by decide, fun s => ⟨?_, sizeW_le s.regs, sizeH_le s.regs, sizeW_eq_zero_iff s.regs, sizeH_eq_zero_iff s.regs⟩⟩
  exact ⟨_, exec_of_ok (i := .measure) (measureResult_eq s), ended_endCommand .., rfl, toNat_sizeW s.regs,
    toNat_sizeH s.regs⟩

/-- Settles O31: DRAW, where it raises no error, writes the size MEASURE writes, as the no-op or with its buffer. -/
theorem measureAndDrawAgree : Obligations.MeasureAndDrawAgree := by
  intro s t u hdraw herr hmeasure
  rw [exec_eq_finish] at hdraw hmeasure
  cases hdraw
  cases hmeasure
  obtain ⟨e, h⟩ | h | ⟨f, -, -, -, h⟩ := drawResult_cases s <;> simp only [resultOf, h] at herr ⊢
  · simp at herr
  · exact ⟨rfl, rfl⟩
  · exact ⟨rfl, rfl⟩

/-! ### PRESENT -/

/-- Settles O40: the two cases of PRESENT's no-op test. -/
theorem presentPutsTheBuffer : Obligations.PresentPutsTheBuffer := by
  refine ⟨by decide, fun s => ⟨fun hw hh => ?_, fun hempty => ?_⟩⟩
  · have hresult : resultOf .present s = .ok (s.put s.raster) := if_neg (not_or.2 ⟨hw, hh⟩)
    exact ⟨_, exec_of_ok hresult, ended_endCommand .., rfl, rfl⟩
  · have hresult : resultOf .present s = .noop s := if_pos hempty
    exact ⟨_, exec_of_noop hresult, ended_endCommand .., rfl⟩

/-! ### The outline's offsets (43 R168) -/

theorem symRange_eq_map (t : Nat) : symRange t = (List.range (2 * t + 1)).map fun k : Nat => (k : Int) - t := by
  simp [symRange, ← List.map_eq_flatMap]

theorem mem_symRange (t : Nat) (z : Int) : z ∈ symRange t ↔ -(t : Int) ≤ z ∧ z ≤ t := by
  simp only [symRange_eq_map, List.mem_map, List.mem_range]
  constructor
  · rintro ⟨k, hk, rfl⟩
    omega
  · intro hz
    exact ⟨(z + t).toNat, by omega, by omega⟩

theorem nodup_symRange (t : Nat) : (symRange t).Nodup := by
  rw [symRange_eq_map]
  exact List.nodup_range.map fun a b h => by simpa using h

theorem length_symRange (t : Nat) : (symRange t).length = 2 * t + 1 := by simp [symRange_eq_map]

/-- The square of the loops of 43 R167, of which the offsets are all but (0, 0). -/
def outlineSquare (t : Nat) : List (Int × Int) := (symRange t ×ˢ symRange t).map Prod.swap

theorem mem_outlineSquare (t : Nat) (ox oy : Int) :
    (ox, oy) ∈ outlineSquare t ↔ (-(t : Int) ≤ ox ∧ ox ≤ t) ∧ (-(t : Int) ≤ oy ∧ oy ≤ t) := by
  simp [outlineSquare, mem_symRange, and_comm]

theorem nodup_outlineSquare (t : Nat) : (outlineSquare t).Nodup :=
  ((nodup_symRange t).product (nodup_symRange t)).map Prod.swap_injective

theorem length_outlineSquare (t : Nat) : (outlineSquare t).length = (2 * t + 1) ^ 2 := by
  rw [outlineSquare, List.length_map, List.length_product, length_symRange, sq]

theorem outlineOffsets_eq_erase (t : Nat) : outlineOffsets t = (outlineSquare t).erase (0, 0) := by
  rw [(nodup_outlineSquare t).erase_eq_filter]
  simp only [outlineOffsets, outlineSquare, SProd.sprod, List.product, List.map_flatMap, List.map_map]
  exact List.filter_congr fun o _ => by rw [bne, beq_eq_decide, decide_not]

theorem mem_outlineOffsets (t : Nat) (ox oy : Int) :
    (ox, oy) ∈ outlineOffsets t ↔
      (-(t : Int) ≤ ox ∧ ox ≤ t) ∧ (-(t : Int) ≤ oy ∧ oy ≤ t) ∧ (ox, oy) ≠ (0, 0) := by
  rw [outlineOffsets_eq_erase, (nodup_outlineSquare t).mem_erase_iff, mem_outlineSquare]
  tauto

/-- Settles O36: the offsets are the square of side `2t + 1`, which holds (0, 0) once, less that pair. -/
theorem outlineOffsetsFillTheSquare : Obligations.OutlineOffsetsFillTheSquare := by
  intro t
  have hcentre : ((0, 0) : Int × Int) ∈ outlineSquare t := (mem_outlineSquare t 0 0).2 (by omega)
  refine ⟨mem_outlineOffsets t, ?_, ?_⟩
  · rw [outlineOffsets_eq_erase]
    exact (nodup_outlineSquare t).erase _
  · rw [outlineOffsets_eq_erase, List.length_erase_of_mem hcentre, length_outlineSquare]

end Sys2Proof.Machine
end

section
/-! PROOF. DRAW (43 R170): its checks in their order, and the pixels it paints, layer by layer and character by character. -/

namespace Sys2Proof.Machine

open Sys2Proof.Claims

/-! ### The checks of DRAW, in their order -/

/-- The writes of a DRAW that draws: OUT_W, OUT_H, the new buffer and its Put (43 R170). -/
def State.afterDraw (s : State) (f : Nat) : State :=
  ((s.setOutSize (sizeW s.regs) (sizeH s.regs)).setBuffer (sizeW s.regs) (sizeH s.regs) (s.drawn f).pixels).put
    (s.drawn f)

/-- The finished buffer has the size of the text (43 R162). -/
theorem drawn_size (s : State) (f : Nat) :
    (s.drawn f).w = sizeW s.regs ∧ (s.drawn f).h = sizeH s.regs ∧ (s.drawn f).Ok := drawn_shape s f

/-- The Put has the size of the text (43 R162, R175). -/
theorem afterDraw_surface (s : State) (f : Nat) :
    (s.afterDraw f).surface =
      s.surface ++ [.put s.regs.posX s.regs.posY (sizeW s.regs) (sizeH s.regs) (s.drawn f).pixels] := by
  obtain ⟨hw, hh, -⟩ := drawn_size s f
  have hput : (s.afterDraw f).surface =
      s.surface ++ [.put s.regs.posX s.regs.posY (s.drawn f).w (s.drawn f).h (s.drawn f).pixels] := rfl
  rw [hput, hw, hh]

theorem drawResult_longText {s : State} {f : Nat} (hf : s.resolveFont = some f)
    (ht : s.params.maxText < s.regs.textChars) : drawResult s = .raise .param := by
  simp only [drawResult, hf, if_pos ht]

section

variable {s : State} {f : Nat} (hf : s.resolveFont = some f) (ht : s.regs.textChars ≤ s.params.maxText)
  (hp : s.regs.gradEn = true → s.regs.palN ≤ s.params.maxPalette)

include hf ht hp

/-- Past the checks of the font, the text and the palette, the size decides how DRAW ends; the no-op test comes first. -/
theorem drawResult_checked :
    drawResult s =
      if sizeW s.regs = 0 ∨ sizeH s.regs = 0 then .noop (s.setOutSize (sizeW s.regs) (sizeH s.regs))
      else if s.params.maxW < sizeW s.regs ∨ s.params.maxH < sizeH s.regs then .raise .tooLarge
      else .ok (s.afterDraw f) := by
  have hpal : ¬ (s.regs.gradEn = true ∧ s.paletteTooLong = true) := by simpa [State.paletteTooLong] using hp
  simp only [drawResult, hf, if_neg (Nat.not_lt.2 ht), if_neg hpal]
  rfl

theorem drawResult_noop (h : sizeW s.regs = 0 ∨ sizeH s.regs = 0) :
    drawResult s = .noop (s.setOutSize (sizeW s.regs) (sizeH s.regs)) :=
  (drawResult_checked hf ht hp).trans (if_pos h)

theorem drawResult_tooLarge (hw : sizeW s.regs ≠ 0) (hh : sizeH s.regs ≠ 0)
    (h : s.params.maxW < sizeW s.regs ∨ s.params.maxH < sizeH s.regs) : drawResult s = .raise .tooLarge := by
  rw [drawResult_checked hf ht hp, if_neg (not_or.2 ⟨hw, hh⟩), if_pos h]

end

/-- A DRAW that reaches step 4 of 43 R170 makes its writes. -/
theorem drawResult_of_drawable {s : State} {f : Nat} (h : Drawable s f) : drawResult s = .ok (s.afterDraw f) := by
  obtain ⟨hf, ht, hp, ⟨hw, hmaxW⟩, ⟨hh, hmaxH⟩⟩ := h
  rw [drawResult_checked hf ht hp, if_neg (by omega), if_neg (by omega)]

/-- Settles O33: one equation of `drawResult` per error. -/
theorem drawErrorsInOrder : Obligations.DrawErrorsInOrder := by
  intro s f len paletteBad
  refine ⟨fun hnone => ?_, fun hf ht => ?_, fun hf ⟨hg, hlong⟩ => ?_, fun hf ht hp hw hh hlarge => ?_⟩
  · exact raises_of_resultOf (i := .draw) (drawResult_noFont hnone)
  · exact raises_of_resultOf (i := .draw) (drawResult_longText hf ht)
  · exact raises_of_resultOf (i := .draw) (drawResult_tooLong (decide_eq_true hlong) hf hg)
  · have hp : s.regs.gradEn = true → s.regs.palN ≤ s.params.maxPalette := fun hg =>
      Nat.not_lt.1 fun hlong => hp ⟨hg, hlong⟩
    exact raises_of_resultOf (i := .draw) (drawResult_tooLarge hf ht hp hw hh hlarge)

/-- Settles O34: past its checks, a DRAW of an empty size writes the size and is the no-op. -/
theorem drawNoop : Obligations.DrawNoop := by
  intro s f hf ht hp hempty
  have hresult : resultOf .draw s = .noop _ := drawResult_noop hf ht hp hempty
  exact ⟨_, exec_of_noop hresult, ended_endCommand .., rfl, toNat_sizeW s.regs, toNat_sizeH s.regs⟩

/-- The state a drawable DRAW ends in, all but its pixels: the size, the buffer of that size, and its Put. -/
theorem exec_draw_of_drawable {s : State} {f : Nat} (hlegal : s.params.Legal) (h : Drawable s f) :
    ∃ t, exec .draw s = .next t ∧ Ended t 0x03 none false ∧ OnlyDrawn s t ∧
      t.outW.toNat = sizeW s.regs ∧ t.outH.toNat = sizeH s.regs ∧ t.bufW = sizeW s.regs ∧ t.bufH = sizeH s.regs ∧
      t.pix = (s.drawn f).pixels ∧
      t.surface = s.surface ++ [.put s.regs.posX s.regs.posY (sizeW s.regs) (sizeH s.regs) t.pix] := by
  have hresult : resultOf .draw s = .ok (s.afterDraw f) := drawResult_of_drawable h
  obtain ⟨-, -, -, ⟨-, hmaxW⟩, ⟨-, hmaxH⟩⟩ := h
  obtain ⟨-, -, -, ⟨-, hlegalW⟩, ⟨-, hlegalH⟩⟩ := hlegal
  refine ⟨_, exec_of_ok hresult, ended_endCommand .., rfl, toNat_sizeW s.regs, toNat_sizeH s.regs, ?_, ?_, rfl,
    afterDraw_surface s f⟩
  · exact setBuffer_bufW s _ _ (s.drawn f).pixels (by omega)
  · exact setBuffer_bufH s _ _ (s.drawn f).pixels (by omega)

/-! ### The layers of a character (43 R167) -/

/-- The buffer holds its w × h pixels, and (x, y) is one of them. -/
def Raster.Holds (r : Raster) (x y : Nat) : Prop := r.Ok ∧ x < r.w ∧ y < r.h

/-- A buffer of the same shape has the same pixels. -/
theorem Raster.SameShape.holds {r q : Raster} (h : r.SameShape q) {x y : Nat} (hr : r.Holds x y) : q.Holds x y := by
  obtain ⟨hw, hh, hlen⟩ := h
  obtain ⟨hok, hx, hy⟩ := hr
  exact ⟨by rw [Raster.Ok, hlen, hw, hh, hok], hw ▸ hx, hh ▸ hy⟩

/-- The glyph of character `k` lights the pixel (x, y) when it is placed at the offset `o`, in cells, from the character's
base position (43 R163, R167). -/
def Effective.covers (e : Effective) (glyph : Nat → Byte) (k x y : Nat) (o : Int × Int) : Bool :=
  coversAt glyph (e.baseX k + o.1 * e.sx) (e.baseY + o.2 * e.sy) e.sx e.sy x y

/-- The loops of 43 R167 over offset pairs reach the pixels that the glyph at one of the outline's offsets lights. -/
theorem outlineCovers_eq_any (glyph : Nat → Byte) (bx by' : Int) (sx sy t x y : Nat) :
    outlineCovers glyph bx by' sx sy t x y =
      (outlineOffsets t).any fun o => coversAt glyph (bx + o.1 * sx) (by' + o.2 * sy) sx sy x y := by
  rw [Bool.eq_iff_iff]
  simp only [outlineCovers, List.any_eq_true, List.mem_range, Bool.and_eq_true, Bool.or_eq_true, decide_eq_true_eq,
    Prod.exists, mem_outlineOffsets]
  constructor
  · rintro ⟨i, hi, j, hj, hne, hcovers⟩
    refine ⟨i - t, j - t, ⟨by omega, by omega, fun h0 => ?_⟩, hcovers⟩
    obtain ⟨hi0, hj0⟩ := Prod.mk.inj h0
    omega
  · rintro ⟨ox, oy, ⟨hx, hy, hne⟩, hcovers⟩
    refine ⟨(ox + t).toNat, by omega, (oy + t).toNat, by omega, ?_, ?_⟩
    · by_contra h0
      have hox : ox = 0 := by omega
      have hoy : oy = 0 := by omega
      exact hne (by rw [hox, hoy])
    · rwa [Int.toNat_of_nonneg (by omega), Int.toNat_of_nonneg (by omega), add_sub_cancel_right, add_sub_cancel_right]

section

variable (e : Effective) (glyph : Nat → Byte) (k : Nat) (src : Source) {x y : Nat}

theorem pixel_blitAt (o : Int × Int) {r : Raster} (hr : r.Holds x y) :
    (blitAt e glyph k src r o).pixel x y =
      if e.covers glyph k x y o then some (src.colourAt y) else r.pixel x y := by
  obtain ⟨hok, hx, hy⟩ := hr
  exact pixel_blit glyph _ _ e.sx e.sy src hok hx hy

/-- Blits of one glyph at several offsets, from one source, reach the pixels one of them covers. -/
theorem pixel_foldl_blitAt (l : List (Int × Int)) {r : Raster} (hr : r.Holds x y) :
    (l.foldl (blitAt e glyph k src) r).pixel x y =
      if l.any (e.covers glyph k x y) then some (src.colourAt y) else r.pixel x y := by
  induction l generalizing r with
  | nil => simp
  | cons o l ih =>
    have hshape : r.SameShape (blitAt e glyph k src r o) := blit_shape _ _ _ _ _ _ r
    rw [List.foldl_cons, ih (hshape.holds hr), pixel_blitAt e glyph k src o hr]
    cases ho : e.covers glyph k x y o with
    | false => rw [List.any_cons, ho, Bool.false_or, if_neg Bool.false_ne_true]
    | true => rw [List.any_cons, ho, Bool.true_or, if_pos rfl, ite_self]

end

section

variable (s : State) (h : Nat) (glyph : Nat → Byte) (k : Nat)

/-- The base position of 43 R163, from the registers. -/
theorem baseX_effective (g : Regs) : g.effective.baseX k = k * 8 * effSX g + effT g * effSX g := by
  simp only [Effective.baseX]
  push_cast
  rfl

theorem baseY_effective (g : Regs) : g.effective.baseY = effT g * effSY g := by
  simp only [Effective.baseY]
  push_cast
  rfl

/-- What each layer's glyph covers, from the registers. -/
theorem covers_effective (g : Regs) (x y : Nat) (o : Int × Int) :
    g.effective.covers glyph k x y o =
      coversAt glyph (k * 8 * effSX g + effT g * effSX g + o.1 * effSX g) (effT g * effSY g + o.2 * effSY g)
        (effSX g) (effSY g) x y := by
  rw [Effective.covers, baseX_effective, baseY_effective]
  rfl

variable {r : Raster} {x y : Nat} (hr : r.Holds x y)

include hr

/-- Layer a, the outline, where it is enabled. -/
theorem pixel_outlineLayer :
    (outlineLayer (s.paint h) glyph k r).pixel x y =
      if flagBit s.regs.effects 1 && outlineCovers glyph (k * 8 * effSX s.regs + effT s.regs * effSX s.regs)
          (effT s.regs * effSY s.regs) (effSX s.regs) (effSY s.regs) (effT s.regs) x y then
        some (color s.regs.colorOutline)
      else r.pixel x y := by
  rw [outlineCovers_eq_any]
  simp only [← covers_effective]
  by_cases hon : s.regs.outlineEn = true
  · simp only [outlineLayer, State.paint, if_pos hon]
    rw [pixel_foldl_blitAt _ _ _ _ _ hr, show flagBit s.regs.effects 1 = true from hon, Bool.true_and]
    rfl
  · have hoff : flagBit s.regs.effects 1 = false := Bool.eq_false_iff.2 hon
    simp [outlineLayer, State.paint, hon, hoff]

/-- Layer b, the shadow, where it is enabled. -/
theorem pixel_shadowLayer :
    (shadowLayer (s.paint h) glyph k r).pixel x y =
      if flagBit s.regs.effects 2 &&
          coversAt glyph (k * 8 * effSX s.regs + effT s.regs * effSX s.regs + effDX s.regs * effSX s.regs)
            (effT s.regs * effSY s.regs + effDY s.regs * effSY s.regs) (effSX s.regs) (effSY s.regs) x y then
        some (color s.regs.colorShadow)
      else r.pixel x y := by
  rw [← covers_effective glyph k s.regs x y (effDX s.regs, effDY s.regs)]
  by_cases hon : s.regs.shadowEn = true
  · simp only [shadowLayer, State.paint, if_pos hon]
    rw [pixel_blitAt _ _ _ _ _ hr, show flagBit s.regs.effects 2 = true from hon, Bool.true_and]
    rfl
  · have hoff : flagBit s.regs.effects 2 = false := Bool.eq_false_iff.2 hon
    simp [shadowLayer, State.paint, hon, hoff]

/-- The three layers of a character over a pixel (43 R167). -/
theorem pixel_composite {below : Color} (hbelow : r.pixel x y = some below) :
    (composite (s.paint h) glyph k r).pixel x y =
      some (charPixel s.regs (s.fgSource h) glyph k x y below) := by
  have houtline := outlineLayer_shape (s.paint h) glyph k r
  have hshadow := shadowLayer_shape (s.paint h) glyph k (outlineLayer (s.paint h) glyph k r)
  have hfg := covers_effective glyph k s.regs x y (0, 0)
  simp only [zero_mul, add_zero] at hfg
  rw [composite, pixel_blitAt _ _ _ _ _ (hshadow.holds (houtline.holds hr)),
    pixel_shadowLayer s h glyph k (houtline.holds hr), pixel_outlineLayer s h glyph k hr, hbelow]
  simp only [charPixel, ← hfg, apply_ite some]
  rfl

end

/-- The characters in text order, each over what those before it left (43 R167, R170). -/
theorem pixel_compositeText (s : State) (h : Nat) (glyph : Nat → Nat → Byte) (len : Nat) {r : Raster} {x y : Nat}
    (hr : r.Holds x y) (hfill : r.pixel x y = some (fillOf s.regs)) :
    (compositeText (s.paint h) glyph len r).pixel x y = some (textPixel s.regs (s.fgSource h) glyph x y len) := by
  induction len with
  | zero => exact hfill
  | succ k ih =>
    have hstep : compositeText (s.paint h) glyph (k + 1) r =
        composite (s.paint h) (glyph k) k (compositeText (s.paint h) glyph k r) := by
      rw [compositeText, List.range_succ, List.foldl_append]
      rfl
    have hholds := (compositeText_shape (s.paint h) glyph k r).holds hr
    rw [hstep, pixel_composite s h (glyph k) k hholds ih]
    rfl

/-- The pixels of the finished buffer of a DRAW (43 R170). -/
theorem pixel_drawn (s : State) (f : Nat) {x y : Nat} (hx : x < sizeW s.regs) (hy : y < sizeH s.regs) :
    (s.drawn f).pixel x y =
      some (textPixel s.regs (foregroundOf s (sizeH s.regs)) (fun k => s.glyphRow f (s.textChar k)) x y
        (field s.regs.textLen 0 16)) :=
  pixel_compositeText s (sizeH s.regs) (fun k => s.glyphRow f (s.textChar k)) (field s.regs.textLen 0 16)
    (r := Raster.filled (sizeW s.regs) (sizeH s.regs) (fillOf s.regs)) ⟨filled_ok _ _ _, hx, hy⟩
    (pixel_filled _ _ _ x y hx hy)

/-- Settles O32: the end of DRAW, and the pixels of the buffer it puts. -/
theorem drawPaintsTheText : Obligations.DrawPaintsTheText := by
  intro s f hlegal h
  obtain ⟨t, ht, hended, honly, houtW, houtH, hbufW, hbufH, hpix, hsurface⟩ := exec_draw_of_drawable hlegal h
  obtain ⟨hw, hh, hok⟩ := drawn_size s f
  refine ⟨t, ht, hended, honly, houtW, houtH, hbufW, hbufH, ?_, hsurface, fun x hx y hy => ?_⟩
  · rw [hpix, hok, hw, hh]
  · rw [hpix, ← pixel_drawn s f hx hy, pixel_eq_getElem? (hw ▸ hx) (hh ▸ hy), hw]

/-! ### An empty string (43 R174) -/

/-- With no characters there is no blit. -/
theorem compositeText_of_empty (p : Paint) (glyph : Nat → Nat → Byte) {len : Nat} (h : len = 0) (r : Raster) :
    compositeText p glyph len r = r := by
  rw [h]
  rfl

/-- The buffer of an empty string holds only the fill. -/
theorem drawn_pixels_of_empty {s : State} (f : Nat) (hlen : field s.regs.textLen 0 16 = 0) :
    (s.drawn f).pixels = List.replicate (sizeW s.regs * sizeH s.regs) (fillOf s.regs) :=
  congrArg Raster.pixels (compositeText_of_empty (s.paint (sizeH s.regs)) (fun k => s.glyphRow f (s.textChar k)) hlen
    (Raster.filled (sizeW s.regs) (sizeH s.regs) (fillOf s.regs)))

/-- Settles O35: without characters W is extraX, and DRAW ends as its size says, with no blit. -/
theorem emptyStringDraws : Obligations.EmptyStringDraws := by
  intro s f hlegal hf hlen hp extraX
  have hwidth : sizeW s.regs = extraX := by simp [sizeW, hlen, extraX]
  have ht : field s.regs.textLen 0 16 ≤ s.params.maxText := hlen.trans_le (Nat.zero_le _)
  refine ⟨hwidth, ?_, fun hzero => ?_⟩
  · rw [← hwidth]
    intro hw hmaxW hh hmaxH
    obtain ⟨t, hexec, hended, -, -, -, hbufW, hbufH, hpix, hsurface⟩ :=
      exec_draw_of_drawable hlegal ⟨hf, ht, hp, ⟨hw, hmaxW⟩, ⟨hh, hmaxH⟩⟩
    exact ⟨t, hexec, hended, hbufW, hbufH, hpix.trans (drawn_pixels_of_empty f hlen), hsurface⟩
  · obtain ⟨t, hexec, hended, honly, -⟩ := drawNoop s f hf ht hp (.inl (hwidth.trans hzero))
    exact ⟨t, hexec, hended, honly⟩

/-! ### The halo of a fully lit character (43 R181) -/

/-- A glyph with every row 0xFF lights every pixel of its 8 × 8 cells. -/
theorem coversAt_lit {glyph : Nat → Byte} (hlit : ∀ row < 8, glyph row = 0xFF) (ox oy : Int) (sx sy x y : Nat) :
    coversAt glyph ox oy sx sy x y = true ↔
      ox ≤ x ∧ (x : Int) < ox + 8 * sx ∧ oy ≤ y ∧ (y : Int) < oy + 8 * sy := by
  rw [coversAt, Bool.and_eq_true, decide_eq_true_eq, and_iff_left_iff_imp]
  rintro ⟨-, -, hlow, hhigh⟩
  have hrow : ((y : Int) - oy).toNat / sy < 8 := Nat.div_lt_of_lt_mul (by omega)
  have hall : ∀ i < 8, (0xFF : Byte).getLsbD i = true := by decide
  rw [hlit _ hrow]
  exact hall _ (Nat.lt_succ_of_le (Nat.sub_le 7 _))

/-- On one axis, a pixel of the halo is in the eight lit columns, or in those moved by one cell. -/
theorem exists_haloOffset {z : Nat} (hz : z < 10) :
    ∃ a : Int, (-1 ≤ a ∧ a ≤ 1) ∧ (1 + a ≤ z ∧ (z : Int) < 1 + a + 8) ∧ (a = 0 → 1 ≤ z ∧ z ≤ 8) := by
  obtain rfl | hpos := Nat.eq_zero_or_pos z
  · exact ⟨-1, by omega⟩
  · by_cases h9 : z = 9
    · exact ⟨1, by omega⟩
    · exact ⟨0, by omega⟩

/-- The outline of thickness 1 of a fully lit character reaches every pixel of the border of the 10 × 10 buffer. -/
theorem outlineCovers_halo {glyph : Nat → Byte} (hlit : ∀ row < 8, glyph row = 0xFF) {x y : Nat} (hx : x < 10)
    (hy : y < 10) (hborder : ¬ (1 ≤ x ∧ x ≤ 8 ∧ 1 ≤ y ∧ y ≤ 8)) : outlineCovers glyph 1 1 1 1 1 x y = true := by
  obtain ⟨a, ha, hxa, ha0⟩ := exists_haloOffset hx
  obtain ⟨b, hb, hyb, hb0⟩ := exists_haloOffset hy
  rw [outlineCovers_eq_any, List.any_eq_true]
  refine ⟨(a, b), (mem_outlineOffsets 1 a b).2 ⟨ha, hb, fun h0 => hborder ?_⟩, (coversAt_lit hlit ..).2 ?_⟩
  · obtain ⟨rfl, rfl⟩ := Prod.mk.inj h0
    omega
  · push_cast
    omega

/-- The first character's pixel in the 10 × 10 buffer: the foreground covers the inner square, the outline the border. -/
theorem charPixel_halo {g : Regs} {glyph : Nat → Byte} (hlit : ∀ row < 8, glyph row = 0xFF) (hsx : effSX g = 1)
    (hsy : effSY g = 1) (ht : effT g = 1) (hon : flagBit g.effects 1 = true) (hshadow : flagBit g.effects 2 = false)
    (fg : Source) {x y : Nat} (hx : x < 10) (hy : y < 10) (below : Color) :
    charPixel g fg glyph 0 x y below =
      if 1 ≤ x ∧ x ≤ 8 ∧ 1 ≤ y ∧ y ≤ 8 then fg.colourAt y else color g.colorOutline := by
  have hinner : coversAt glyph 1 1 1 1 x y = true ↔ 1 ≤ x ∧ x ≤ 8 ∧ 1 ≤ y ∧ y ≤ 8 := by
    rw [coversAt_lit hlit]
    omega
  by_cases hin : 1 ≤ x ∧ x ≤ 8 ∧ 1 ≤ y ∧ y ≤ 8
  · simp [charPixel, hsx, hsy, ht, hinner.2 hin, hin]
  · simp [charPixel, hsx, hsy, ht, hon, hshadow, hinner, hin, outlineCovers_halo hlit hx hy hin]

/-- Settles O37: the size is 10 × 10, and the one character's pixels are those of `charPixel_halo`. -/
theorem outlineHalo : Obligations.OutlineHalo := by
  intro s f hlegal hdraw hlen hlit hsx hsy hon hthick hshadow hgrad
  have ht : effT s.regs = 1 := by rw [effT, if_pos hon, hthick]
  have hdx : effDX s.regs = 0 := by simp [effDX, hshadow]
  have hdy : effDY s.regs = 0 := by simp [effDY, hshadow]
  have hw : sizeW s.regs = 10 := by simp [sizeW, hlen, hsx, ht, hdx]
  have hh : sizeH s.regs = 10 := by simp [sizeH, hsy, ht, hdy]
  have hfg : foregroundOf s 10 = .fixed (color s.regs.colorFg) := by simp [foregroundOf, hgrad]
  obtain ⟨t, hexec, -, -, -, -, hbufW, hbufH, -, -, hpixels⟩ := drawPaintsTheText s f hlegal hdraw
  simp only [hw, hh, hfg, hlen] at hbufW hbufH hpixels
  refine ⟨t, hexec, hbufW, hbufH, fun x hx y hy => ?_⟩
  rw [hpixels x hx y hy, textPixel, charPixel_halo hlit hsx hsy ht hon hshadow _ hx hy]
  rfl

/-! ### The range of coordinates (43 R166) -/

/-- The pixels of a blit are within the eight cells from its origin. -/
theorem mem_blitPixels_range {glyph : Nat → Byte} {ox oy : Int} {sx sy : Nat} {p : Int × Int}
    (h : p ∈ blitPixels glyph ox oy sx sy) :
    (ox ≤ p.1 ∧ p.1 < ox + 8 * sx) ∧ (oy ≤ p.2 ∧ p.2 < oy + 8 * sy) := by
  obtain ⟨row, hrow, hx, hy⟩ := (mem_blitPixels_iff glyph ox oy sx sy p.1 p.2).1 h
  obtain ⟨hcols, -⟩ := (exists_cell_iff (fun col => lit (glyph row) col = true) ox p.1 sx).1 hx
  obtain ⟨hrows, -⟩ := (exists_cell_iff (fun _ => True) oy p.2 sy).1 ⟨row, hrow, trivial, hy⟩
  exact ⟨hcols, hrows⟩

/-- An offset DRAW passes to a blit, in cells, is at most 255, and at least -128 from the outline's margin (43 R167). -/
theorem offset_range {g : Regs} {o : Int × Int}
    (ho : o = (0, 0) ∨ o ∈ outlineOffsets (effT g) ∨ o = (effDX g, effDY g)) :
    (-128 ≤ effT g + o.1 ∧ o.1 ≤ 255) ∧ (-128 ≤ effT g + o.2 ∧ o.2 ≤ 255) := by
  have ht := effT_le g
  have hdx := effDX_range g
  have hdy := effDY_range g
  obtain rfl | ho | rfl := ho
  · dsimp only
    omega
  · have hsquare := (mem_outlineOffsets (effT g) o.1 o.2).1 ho
    omega
  · dsimp only
    omega

/-- One axis of an origin: a base position, the outline's margin and an offset, in cells of `n` pixels. -/
theorem origin_range {base t n : Nat} {d : Int} (hbase : base ≤ 2048) (ht : t ≤ 255) (hn : n ≤ 255)
    (hd : -128 ≤ t + d ∧ d ≤ 255) :
    -2 * 128 * 255 ≤ (base + t * n + d * n : Int) ∧ (base + t * n + d * n : Int) ≤ 2048 + 2 * 255 * 255 := by
  have hsum : (base + t * n + d * n : Int) = base + (t + d) * n := by ring
  have hlow : (-128 * n : Int) ≤ (t + d) * n := mul_le_mul_of_nonneg_right hd.1 n.cast_nonneg
  have hhigh : ((t + d) * n : Int) ≤ 510 * n := mul_le_mul_of_nonneg_right (by omega) n.cast_nonneg
  rw [hsum]
  omega

/-- The characters of a DRAW within the limits start within MAX_W (43 R166). -/
theorem base_le {s : State} {f k : Nat} (hlegal : s.params.Legal) (h : Drawable s f)
    (hk : k < field s.regs.textLen 0 16) : k * 8 * effSX s.regs ≤ 2048 := by
  obtain ⟨-, -, -, ⟨-, hmaxW⟩, -⟩ := h
  obtain ⟨-, -, -, ⟨-, hlegalW⟩, -⟩ := hlegal
  have hbefore : k * 8 * effSX s.regs ≤ field s.regs.textLen 0 16 * 8 * effSX s.regs :=
    Nat.mul_le_mul_right _ (Nat.mul_le_mul_right 8 hk.le)
  unfold sizeW at hmaxW
  omega

/-- Settles O38: the text fits MAX_W, and margin, offset and scale are each a field of 8 bits. -/
theorem coordinatesAreBounded : Obligations.CoordinatesAreBounded := by
  intro s f k o glyph hlegal hdraw hk ho ox oy
  obtain ⟨hox, hoy⟩ := offset_range ho
  have hsx := effSX_le s.regs
  have hsy := effSY_le s.regs
  have hx := origin_range (base_le hlegal hdraw hk) (effT_le s.regs) hsx hox
  have hy := origin_range (Nat.zero_le 2048) (effT_le s.regs) hsy hoy
  push_cast at hx hy
  rw [zero_add] at hy
  refine ⟨hx, hy, fun p hp => ?_⟩
  have hcells := mem_blitPixels_range hp
  omega

end Sys2Proof.Machine
end

section
/-! PROOF. The control and surface commands (44): the writes each one's own rule makes, which the end of the command keeps. -/

namespace Sys2Proof.Machine

open Sys2Proof.Claims

/-- NOP's own rule writes nothing (44 R190). -/
theorem resultOf_nop (s : State) : resultOf .nop s = .ok s := rfl

/-- CLEAR's own rule is one event, whose rectangle is the fields of CLEAR_XY and CLEAR_WH (44 R191). -/
theorem resultOf_clear (s : State) : resultOf .clear s = .ok (s.emit (.clear
    (sext 16 (field s.regs.clearXY 0 16)) (sext 16 (field s.regs.clearXY 16 16))
    (field s.regs.clearWH 0 16) (field s.regs.clearWH 16 16))) := rfl

/-- Settles O10: NOP is the end-of-command write and no other. -/
theorem nopOnlyEnds : Obligations.NopOnlyEnds :=
  ⟨by decide, fun s => ⟨s.endCommand 0x00 none false, exec_of_ok (resultOf_nop s), ended_endCommand .., rfl⟩⟩

/-- Settles O11: CLEAR is one event, then the end-of-command write, which keeps the surface log. -/
theorem clearAppendsItsRectangle : Obligations.ClearAppendsItsRectangle := by
  refine ⟨by decide, fun s => ⟨_, exec_of_ok (resultOf_clear s), ended_endCommand .., rfl, ?_⟩⟩
  rw [endCommand_surface, emit_surface]

end Sys2Proof.Machine
end

section
/-! PROOF. The end of every command (60): each pending word ends in one engine step, and one that raises an error keeps
nothing it might have written. -/

namespace Sys2Proof.Machine

open Sys2Proof.Claims

theorem engineTurn_of_idle {s : State} (hp : s.pending = none) : engineTurn s = .next s := by
  simp only [engineTurn, hp]

/-- The engine finishes whatever word is pending under the word's own OP, and as a no-op only a DRAW or a PRESENT. -/
theorem engineTurn_of_pending {s : State} {w : Word} (hp : s.pending = some w) :
    ∃ r : CmdResult, engineTurn s = .next (finish (opField w) s r) ∧
      (r.isNoop = true → field w 24 8 = 0x03 ∨ field w 24 8 = 0x07) := by
  cases hw : decode w with
  | ok i =>
    obtain ⟨hop, -, -⟩ := decode_eq_ok_iff.1 hw
    refine ⟨resultOf i s, by rw [engineTurn_of_decode_ok hp hw, opField, hop], fun hn => ?_⟩
    obtain ⟨-, rfl | rfl⟩ := (resultOf_ends i s).noop hn
    · exact .inl hop
    · exact .inr hop
  | error e => exact ⟨.raise .illegalCommand, engineTurn_of_decode_error hp hw, nofun⟩

/-- A no-op raises no error. -/
theorem CmdResult.error_of_isNoop {r : CmdResult} (h : r.isNoop = true) : r.error = none := by
  cases r with
  | noop t => rfl
  | ok t | raise e => cases h

/-- Only a raised error ends with ERR set, and it ends on the state it was handed over in (00 R11, 60 R202). -/
theorem onlyStatus_finish {op : Byte} {s : State} {r : CmdResult} (h : (finish op s r).status.err ≠ none) :
    OnlyStatus s (finish op s r) := by
  cases r with
  | raise e => rfl
  | ok t | noop t => exact absurd rfl h

/-- Settles O7: `finish` is the end-of-command write of 60 R201, and nothing stops the engine before it. -/
theorem everyCommandEnds : Obligations.EveryCommandEnds := by
  refine ⟨fun s w hp => ?_, fun s hp => engineTurn_of_idle hp⟩
  obtain ⟨r, hturn, hop⟩ := engineTurn_of_pending hp
  rw [finish_eq] at hturn
  exact ⟨_, hturn, rfl, rfl, rfl, rfl, fun hn => ⟨CmdResult.error_of_isNoop hn, hop hn⟩⟩

/-- Settles O8: an error's end is the end-of-command write on the state the word was handed over in. -/
theorem errorsChangeOnlyStatus : Obligations.ErrorsChangeOnlyStatus := by
  intro s t w hp ht herr
  obtain ⟨r, hturn, -⟩ := engineTurn_of_pending hp
  rw [hturn] at ht
  cases ht
  exact onlyStatus_finish herr

end Sys2Proof.Machine
end

section
/-! PROOF. Whose turn it is, and when a host's write is refused (70 R222 to R225): a host that waits before it writes is
never refused, and its pending command is performed. -/

namespace Sys2Proof.Machine

open Sys2Proof.Claims

/-! ### The engine's turn -/

/-- A turn the schedule gives the engine. -/
theorem step_of_sched_engine {s : State} {q : List Agent} (h : s.sched = .engine :: q) :
    step s = engineTurn { s with sched := q } := by
  simp only [step, takeTurn, h]

theorem busy_of_pending {s : State} {w : Word} (h : s.pending = some w) : s.busy = true := by
  rw [State.busy, h, Option.isSome_some]

/-- With no schedule given, a pending command goes first. -/
theorem step_of_sched_nil {s : State} {w : Word} (h : s.sched = []) (hp : s.pending = some w) :
    step s = engineTurn s := by
  simp only [step, takeTurn, h, busy_of_pending hp, if_true]

theorem engineTurn_eq_exec {s : State} {w : Word} {i : Instr} (hp : s.pending = some w) (hi : decode w = .ok i) :
    engineTurn s = exec i s := by
  simp only [engineTurn, hp, perform, hi]

/-- Settles O6: the engine has the turn, and performs the command its pending word decodes to. -/
theorem stepPerformsDecodedCommand : Obligations.StepPerformsDecodedCommand := fun s _ _ hp hi =>
  ⟨fun hs => (step_of_sched_nil hs hp).trans (engineTurn_eq_exec hp hi),
    fun q hs => (step_of_sched_engine hs).trans (engineTurn_eq_exec (s := { s with sched := q }) hp hi)⟩

theorem engineTurn_next (s : State) : ∃ t, engineTurn s = .next t := by
  obtain ⟨t, ht, -⟩ := engineTurn_withReplies s
  exact ⟨t, ht⟩

/-- The engine leaves no command pending (70 R222). -/
theorem engineTurn_pending {s t : State} (h : engineTurn s = .next t) : t.pending = none := by
  obtain ⟨hp, rfl⟩ | ⟨w, i, -, -, rfl⟩ | ⟨w, -, rfl⟩ := engineTurn_cases s t h
  · exact hp
  · rw [finish_eq, endCommand_pending]
  · rfl

/-! ### The host's turn -/

theorem hostTurn_write_busy {s : State} {w : Width} {a : Addr} {v : Word} {rest : List HostOp}
    (hh : s.host = .write w a v :: rest) (hb : s.busy = true) : hostTurn s = .refused .hostWriteWhileBusy := by
  simp only [hostTurn, hh, hb, if_true]

/-- Every turn of the host but a write while BUSY = 1 ends in a next state. -/
theorem hostTurn_next {s : State} (h : ∀ w a v rest, s.host = .write w a v :: rest → s.busy = false) :
    ∃ t, hostTurn s = .next t := by
  unfold hostTurn
  split
  · exact ⟨_, rfl⟩
  · exact ⟨_, rfl⟩
  · rename_i w a v rest hh
    exact ⟨_, if_neg (Bool.eq_false_iff.1 (h w a v rest hh))⟩
  · exact ⟨_, rfl⟩
  · exact ⟨_, rfl⟩

/-- Settles O49: a write while BUSY = 1 is the one turn that ends in no next state. -/
theorem onlyBusyWritesAreRefused : Obligations.OnlyBusyWritesAreRefused := by
  refine ⟨fun s w a v rest q hb h => ?_, fun s => ?_⟩
  · rw [step_hostTurnAt h]
    exact hostTurn_write_busy (s := { s with sched := q }) h.1 hb
  · obtain ⟨q, hturn | hturn⟩ := step_turn s <;> rw [hturn]
    · exact .inl (engineTurn_next _)
    · by_cases hstop : s.busy = true ∧ ∃ w a v rest, s.host = .write w a v :: rest
      · obtain ⟨hb, w, a, v, rest, hh⟩ := hstop
        exact .inr ⟨hostTurn_write_busy (s := { s with sched := q }) hh hb, hb, w, a, v, rest, hh⟩
      · exact .inl (hostTurn_next fun w a v rest hh => Bool.eq_false_iff.2 fun hb => hstop ⟨hb, w, a, v, rest, hh⟩)

/-! ### The hand-over of a command -/

/-- Settles O41: the write is taken, CMD is at 0x04, and a write to it is the hand-over. -/
theorem cmdWriteHandsOver : Obligations.CmdWriteHandsOver := by
  intro s w rest q h hb
  rw [step_write h hb, busWrite_reg (r := .cmd) rfl rfl, writeReg_cmd]
  rfl

/-- The four byte addresses of CMD (20 R62). -/
theorem regAt_eq_cmd {a : Nat} (h : regAt a = some .cmd) : a / 4 = 1 := by
  have table : ∀ k < 28, regMap[k]? = some .cmd → k = 1 := by decide
  exact table _ (regAt_mem a .cmd h) h

/-- A taken write to a register is an aligned 32-bit access (20 R63). -/
theorem aligned_of_writeOk {p : Params} {w : Width} {a : Nat} (hok : writeOk p w a = true) (ha : a < regEnd) :
    a % 4 = 0 := by
  rw [writeOk, Bool.and_eq_true] at hok
  exact ((readOk_reg p w a ha).1 hok.1).2

/-- Of all writes, only one to CMD makes the block busy (10 R22). -/
theorem addr_of_busWrite_busy {s : State} {w : Width} {a : Nat} {v : Word} (hb : s.busy = false)
    (h : (s.busWrite w a v).1.busy = true) : a = 4 := by
  have hchanged : (s.busWrite w a v).1.busy ≠ s.busy := by rw [h, hb]; decide
  obtain hsame | ⟨r, hok, hr, hreg⟩ | ⟨-, -, hmem⟩ := busWrite_cases s w a v
  · exact absurd (congrArg State.busy hsame) hchanged
  · obtain rfl | hcmd := eq_or_ne r .cmd
    · have hword := regAt_eq_cmd hr
      have haligned := aligned_of_writeOk hok (regAt_lt hr)
      omega
    · rw [hreg, writeReg_other s r v hcmd] at hchanged
      exact absurd rfl hchanged
  · rw [hmem] at hchanged
    exact absurd rfl hchanged

@[simp] theorem busWrite_host (s : State) (w : Width) (a : Nat) (v : Word) : (s.busWrite w a v).1.host = s.host := by
  obtain h | ⟨r, -, -, h⟩ | ⟨-, -, h⟩ := busWrite_cases s w a v <;> simp [h]

/-! ### A host that waits before it writes -/

/-- The rule of 70 R225 asks less of an idle block. -/
theorem waitsBeforeWriting_idle {b : Bool} {l : List HostOp} (h : waitsBeforeWriting b l = true) :
    waitsBeforeWriting false l = true := by
  induction l with
  | nil => rfl
  | cons op rest ih =>
    cases op with
    | read w a => exact ih h
    | write w a v =>
      obtain ⟨-, hrest⟩ := (Bool.and_eq_true_iff ..).1 h
      exact hrest
    | wait => exact h
    | reset => exact h

/-- The host's accesses still to come keep the rule of 70 R225 from this state on. -/
def State.HostWaits (s : State) : Prop := waitsBeforeWriting s.busy s.host = true

theorem State.HostWaits.of_not_busy {s t : State} (h : s.HostWaits) (hb : t.busy = false) (hh : t.host = s.host) :
    t.HostWaits := by
  rw [State.HostWaits, hb, hh]
  exact waitsBeforeWriting_idle h

theorem State.HostWaits.engineTurn {s t : State} (h : s.HostWaits) (ht : engineTurn s = .next t) : t.HostWaits := by
  obtain ⟨-, -, hhost, -⟩ := engineTurn_keepsHostState s t ht
  exact h.of_not_busy (by rw [State.busy, engineTurn_pending ht, Option.isSome_none]) hhost

/-- A host that waits makes no write while BUSY = 1. -/
theorem State.HostWaits.idle_of_write {s : State} (h : s.HostWaits) {w : Width} {a : Addr} {v : Word}
    {rest : List HostOp} (hh : s.host = .write w a v :: rest) : s.busy = false := by
  rw [State.HostWaits, hh, waitsBeforeWriting, Bool.and_eq_true] at h
  simpa using h.1

/-- After a write the host waits, if that is the hand-over of a command, and otherwise the block is idle. -/
theorem State.HostWaits.busWrite {s : State} (h : s.HostWaits) {w : Width} {a : Addr} {v : Word} {rest : List HostOp}
    (hh : s.host = .write w a v :: rest) : ({ s with host := rest }.busWrite w a.toNat v).1.HostWaits := by
  have hidle := h.idle_of_write hh
  rw [State.HostWaits, hh, waitsBeforeWriting, Bool.and_eq_true] at h
  obtain ⟨-, hrest⟩ := h
  rw [State.HostWaits, busWrite_host]
  cases hb : ({ s with host := rest }.busWrite w a.toNat v).1.busy with
  | false => exact waitsBeforeWriting_idle hrest
  | true =>
    have ha : a = 0x000004 := BitVec.eq_of_toNat_eq (addr_of_busWrite_busy (s := { s with host := rest }) hidle hb)
    simpa [ha] using hrest

theorem State.HostWaits.hostTurn {s t : State} (h : s.HostWaits) (ht : hostTurn s = .next t) : t.HostWaits := by
  obtain ⟨-, rfl⟩ | ⟨w, a, rest, hh, rfl⟩ | ⟨w, a, v, rest, hh, -, rfl⟩ | ⟨rest, -, -, rfl⟩ | ⟨rest, hh, hb, rfl⟩ |
    ⟨rest, hh, rfl⟩ := hostTurn_cases s t ht
  · exact h
  · rw [State.HostWaits, hh] at h
    exact h
  · exact h.busWrite hh
  · exact h
  · rw [State.HostWaits, hh] at h
    change waitsBeforeWriting s.busy rest = true
    rw [hb]
    exact h
  · rw [State.HostWaits, hh] at h
    exact h

/-- Whichever agent has the turn, a host that waits gets a next state in which it still waits. -/
theorem State.HostWaits.step {s : State} (h : s.HostWaits) : ∃ t, step s = .next t ∧ t.HostWaits := by
  obtain ⟨q, hturn | hturn⟩ := step_turn s <;> rw [hturn]
  · obtain ⟨t, ht⟩ := engineTurn_next { s with sched := q }
    exact ⟨t, ht, State.HostWaits.engineTurn (s := { s with sched := q }) h ht⟩
  · obtain ⟨t, ht⟩ := hostTurn_next (s := { s with sched := q }) fun _ _ _ _ hh => h.idle_of_write hh
    exact ⟨t, ht, State.HostWaits.hostTurn (s := { s with sched := q }) h ht⟩

/-- A predicate under which every step answers a next state that meets it again makes every run safe. -/
theorem safe_of_step {P : State → Prop} (hstep : ∀ s, P s → ∃ t, step s = .next t ∧ P t) {s : State} (h : P s) :
    Safe s := by
  intro n
  induction n generalizing s with
  | zero => exact ⟨s, rfl⟩
  | succ n ih =>
    obtain ⟨t, ht, hP⟩ := hstep s h
    rw [runSteps_succ ht]
    exact ih hP

/-- Settles O60: that the host waits is kept by each agent's turn, and then by every run. -/
theorem waitingHostIsNeverRefused : Obligations.WaitingHostIsNeverRefused :=
  ⟨fun _ h => State.HostWaits.step h, fun _ h => safe_of_step (fun _ => State.HostWaits.step) h⟩

/-! ### A pending command is performed -/

theorem runSteps_one {s t : State} (h : step s = .next t) : runSteps 1 s = .next t := runSteps_succ h 0

/-- While a command is pending, a turn of a host that does not reset the block leaves it pending. -/
theorem hostTurn_keepsPending {s t : State} {w : Word} (hp : s.pending = some w) (hr : HostOp.reset ∉ s.host)
    (h : hostTurn s = .next t) : t.pending = some w ∧ t.sched = s.sched ∧ HostOp.reset ∉ t.host := by
  have hbusy : s.busy ≠ false := by rw [busy_of_pending hp]; decide
  obtain ⟨-, rfl⟩ | ⟨x, a, rest, hh, rfl⟩ | ⟨x, a, v, rest, -, hb, -⟩ | ⟨rest, -, -, rfl⟩ | ⟨rest, -, hb, -⟩ |
    ⟨rest, hh, -⟩ := hostTurn_cases s t h
  · exact ⟨hp, rfl, hr⟩
  · exact ⟨hp, rfl, fun hmem => hr (hh ▸ List.mem_cons_of_mem _ hmem)⟩
  · exact absurd hb hbusy
  · exact ⟨hp, rfl, hr⟩
  · exact absurd hb hbusy
  · exact absurd (hh ▸ List.mem_cons_self) hr

/-- The command of a pending word has been performed: idle, DONE, and LASTOP is the word's OP. -/
def State.Performed (t : State) (w : Word) : Prop :=
  t.pending = none ∧ t.status.done = true ∧ t.status.lastOp = BitVec.ofNat 8 (field w 24 8)

theorem engineTurn_performs {s : State} {w : Word} (hp : s.pending = some w) :
    ∃ t, engineTurn s = .next t ∧ t.Performed w := by
  obtain ⟨t, ht, hnone, -, hdone, hop, -⟩ := everyCommandEnds.1 s w hp
  exact ⟨t, ht, hnone, hdone, hop⟩

/-- The engine has its turn when the schedule first names it, or when the schedule is used up. -/
theorem runSteps_performs (q : List Agent) {s : State} {w : Word} (hs : s.sched = q) (hp : s.pending = some w)
    (hw : s.HostWaits) (hr : HostOp.reset ∉ s.host) :
    ∃ n t, n ≤ q.length + 1 ∧ runSteps n s = .next t ∧ t.Performed w := by
  induction q generalizing s with
  | nil =>
    obtain ⟨t, ht, hdone⟩ := engineTurn_performs hp
    exact ⟨1, t, le_rfl, runSteps_one ((step_of_sched_nil hs hp).trans ht), hdone⟩
  | cons agent q ih =>
    cases agent with
    | engine =>
      obtain ⟨t, ht, hdone⟩ := engineTurn_performs (s := { s with sched := q }) hp
      exact ⟨1, t, by omega, runSteps_one ((step_of_sched_engine hs).trans ht), hdone⟩
    | host =>
      obtain ⟨u, hu, huw⟩ := hw.step
      have hturn : hostTurn { s with sched := q } = .next u := by rw [← hu, step, takeTurn, hs]
      obtain ⟨hup, hus, hur⟩ := hostTurn_keepsPending (s := { s with sched := q }) hp hr hturn
      obtain ⟨n, t, hn, ht, hdone⟩ := ih hus hup huw hur
      exact ⟨n + 1, t, by simpa using hn, (runSteps_succ hu n).trans ht, hdone⟩

/-- Settles O59: the schedule's entries before the engine's are turns of a host that waits, and leave the command
pending. -/
theorem pendingCommandIsPerformed : Obligations.PendingCommandIsPerformed := by
  intro s w hp hw hr
  have hwaits : s.HostWaits := by rw [State.HostWaits, busy_of_pending hp]; exact hw
  exact runSteps_performs s.sched rfl hp hwaits hr

/-! ### The race of a STATUS read with the engine -/

/-- On its turn, the host's aligned read of STATUS returns the status word, BUSY = 1 or not (20 R70). -/
theorem step_readStatus {s : State} {rest : List HostOp} {q : List Agent}
    (h : HostTurnAt s (.read .w32 0x000008) rest q) : step s = .next (Replied s rest q (.data s.statusWord)) := by
  rw [step_read h, busRead_definedReg (r := .status) rfl rfl rfl]
  rfl

/-- Settles O53: the word read is STATUS as it stands at the read, before the command's end or after it. -/
theorem statusReadMayRaceTheEngine : Obligations.StatusReadMayRaceTheEngine := by
  intro s w hp hh
  constructor
  · have hread := step_readStatus (s := { s with sched := [.host, .engine] }) ⟨hh, .inl rfl⟩
    obtain ⟨t, ht⟩ := engineTurn_next (Replied s [] [] (.data s.statusWord))
    obtain ⟨-, -, -, hreplies, -⟩ := engineTurn_keepsHostState _ t ht
    obtain ⟨hbusy, -⟩ := statusWordFields s
    exact ⟨t, s.statusWord, runSteps_two hread ht, hreplies, hbusy.trans (busy_of_pending hp)⟩
  · obtain ⟨u, hu, hnone, hdone, -⟩ := engineTurn_performs (s := { s with sched := [.host] }) hp
    obtain ⟨-, -, hhost, hreplies, hsched, -⟩ := engineTurn_keepsHostState _ u hu
    have hread := step_readStatus (s := u) (q := []) ⟨hhost.trans hh, .inl hsched⟩
    have hengine : step { s with sched := [.engine, .host] } = .next u := hu
    obtain ⟨hbusyBit, hdoneBit, -⟩ := statusWordFields u
    refine ⟨_, u.statusWord, runSteps_two hengine hread, by rw [← hreplies]; rfl, ?_, hdoneBit.trans hdone⟩
    rw [hbusyBit, State.busy, hnone, Option.isSome_none]

end Sys2Proof.Machine
end

section
/-! PROOF. Reset (70 R220): the values the registers and the memories take, and the surface log the reset input
leaves. -/

namespace Sys2Proof.Machine

open Sys2Proof.Claims

/-! ### The state after reset -/

/-- No register's reset value depends on the sizes: FONT_VALID, the one masked by a size, is 0. -/
theorem readReg_resetWith (p p' : Params) : (State.resetWith p).readReg = (State.resetWith p').readReg := by
  funext r
  cases r with
  | fontValid => exact BitVec.zero_and.trans BitVec.zero_and.symm
  | _ => rfl

/-- Every row of the reset table stands at a register's address and gives its reset value: checked for the smallest
legal sizes, since no value depends on them. -/
theorem resetTable_regAt (p : Params) : ∀ x ∈ resetTable, (regAt x.1).map (State.resetWith p).readReg = some x.2 := by
  rw [readReg_resetWith p ⟨1, 1, 2, 1, 1, 0, 0, 0⟩]
  decide

/-- After reset the pixel buffer is empty (10 R43, R49). -/
theorem pixByte_resetWith (p : Params) (j : Nat) : (State.resetWith p).pixByte j = none := by
  have empty : (State.resetWith p).bufW * (State.resetWith p).bufH = 0 := by
    simp [State.bufW, State.resetWith, field]
  rw [State.pixByte, empty, if_neg (Nat.not_lt_zero j)]

/-- After reset no memory holds a byte the spec gives (10 R45 to R49). -/
theorem byteAt_resetWith (p : Params) (a : Nat) : (State.resetWith p).byteAt a = none := by
  unfold State.byteAt
  split
  · rfl
  · exact ite_self _
  · exact pixByte_resetWith p _
  · rfl

/-- Settles O54: the registers read the values of the table, and the memories and the buffer are empty. -/
theorem resetRegisterValues : Obligations.ResetRegisterValues := fun p =>
  ⟨fun a v h => resetTable_regAt p (a, v) h, rfl, byteAt_resetWith p, rfl⟩

/-- Settles O56: the base of the invariant that StepKeepsInvariant carries on. -/
theorem resetMeetsInvariant : Obligations.ResetMeetsInvariant := fun _ => inv_resetWith

/-! ### The reset input -/

theorem readReg_resetNow (s : State) (r : Reg) : s.resetNow.readReg r = (State.resetWith s.params).readReg r := by
  cases r <;> rfl

theorem byteAt_resetNow (s : State) (a : Nat) : s.resetNow.byteAt a = none := byteAt_resetWith s.params a

/-- The log a reset leaves is the log as it was, or as the pending command would have left it (log 10). -/
theorem abandonedLog_cases (s : State) :
    s.abandonedLog = s.surface ∨ ∃ u, s.pending ≠ none ∧ engineTurn s = .next u ∧ s.abandonedLog = u.surface := by
  obtain ⟨u, hu⟩ := engineTurn_next s
  cases hfree : Config.freeBit s.draws with
  | false => exact .inl (by simp [State.abandonedLog, hfree])
  | true =>
    have hlog : s.abandonedLog = u.surface := by simp [State.abandonedLog, hfree, hu]
    by_cases hp : s.pending = none
    · rw [engineTurn_of_idle hp] at hu
      cases hu
      exact .inl hlog
    · exact .inr ⟨u, hp, hu, hlog⟩

/-- On its turn, the host's reset input resets the block. -/
theorem step_reset {s : State} {rest : List HostOp} {q : List Agent} (h : HostTurnAt s .reset rest q) :
    step s = .next { s with host := rest, sched := q }.resetNow := by
  rw [step_hostTurnAt h]
  simp only [hostTurn, h.1]

/-- Settles O55: all but the log is the state after reset, and the log is the one of `abandonedLog_cases`. -/
theorem resetInput : Obligations.ResetInput := fun _ _ _ h =>
  ⟨_, step_reset h, readReg_resetNow _, rfl, byteAt_resetNow _, rfl, rfl, abandonedLog_cases _⟩

end Sys2Proof.Machine
end
